-- ==== Sys2Proof/Config.lean ====
section
/-! DEFINITION. Config.lean: the one value the model names for the reset state. No instruction of this block has a result the
spec leaves open, so there is no free value. -/

namespace Sys2Proof

/-- The samples-per-bit of the machine right after reset: 44100/1200, the worked example of 45_host_ops.md R220.
DESIGN CHOICE, unsafe (log 1): 10_state.md R22 gives "the CONSTRUCT operand; no default". -/
def Config.resetSpb : ℚ := 147 / 4

end Sys2Proof
end

