-- ==== Sys2Proof/Word.lean ====
section
/-! DEFINITION. Word.lean: the byte of the packet and the command interface, and the logic level of the line. -/

namespace Sys2Proof

/-- A packet byte or a byte of a host request: an integer 0..255 (00_scope.md R10, R12). -/
abbrev Byte := BitVec 8

/-- A resolved line symbol or a recovered bit period, over 0 and 1 (00_scope.md R16):
`true` is 1, mark, the idle level; `false` is 0, space. -/
abbrev Bit := Bool

end Sys2Proof
end

