-- ==== Sys2Proof/Machine/Protocol.lean ====
section
/-! DEFINITION. Machine/Protocol.lean: the literals of the one fixed protocol, normative as written (00_scope.md R18,
93_implementation_defined.md U3). -/

namespace Sys2Proof.Machine

/-- Bit periods of unbroken mark that must be EXCEEDED to arm (40_sampler_sync.md R110). -/
def armingPeriods : Nat := 9

/-- Bit periods of one character, and the byte stride (30_encoding.md R72, 42_byte_framer.md R152). -/
def periodsPerChar : Nat := 10

/-- Bit periods a stream must hold: 90 after the dropped one (42_byte_framer.md R151, 90_conflicts.md C1). -/
def minStreamPeriods : Nat := 91

/-- The code of the digit character '0' (30_encoding.md R75). -/
def digitOffset : Nat := 48

/-- The offset of the checksum byte (30_encoding.md R76). -/
def checksumOffset : Nat := 64

/-- Packet byte 7, line feed (30_encoding.md R77). -/
def lineFeed : Byte := 0x0A

/-- Packet byte 8, carriage return (30_encoding.md R77). -/
def carriageReturn : Byte := 0x0D

/-- Status ' ' (30_encoding.md R74). -/
def codeSpace : Byte := 0x20

/-- Status 'S' (30_encoding.md R74). -/
def codeS : Byte := 0x53

/-- Status 'I' (30_encoding.md R74). -/
def codeI : Byte := 0x49

/-- Status 'L' (30_encoding.md R74). -/
def codeL : Byte := 0x4C

/-- Status 'R' (30_encoding.md R74). -/
def codeR : Byte := 0x52

/-- Status 'C' (30_encoding.md R74). -/
def codeC : Byte := 0x43

/-- Status 'A' (30_encoding.md R74). -/
def codeA : Byte := 0x41

/-- The seven legal status codes (43_validator.md R171). -/
def statusCodes : List Byte := [codeSpace, codeS, codeI, codeL, codeR, codeC, codeA]

/-- Membership in the seven-code set, as a comparison of integers (43_validator.md R171). -/
def isStatusCode (c : Byte) : Bool := decide (c ∈ statusCodes)

end Sys2Proof.Machine
end

