-- ==== Sys2Proof/Syntax.lean ====
section
/-! DEFINITION. Syntax.lean: the values host operations take (30_encoding.md R80) and the ONE inductive of
instructions, one constructor per row of opcode_table.json. -/

namespace Sys2Proof

/-- One audio sample (10_state.md R27): a finite amplitude (its magnitude is unbounded and its value +0 is
`finite 0`), negative zero, an infinity, or not-a-number. Only `Machine.classify` ever looks inside.
DESIGN CHOICE (log 11). -/
inductive Sample where
  | finite (x : ℚ)
  | negZero
  | posInf
  | negInf
  | nan
deriving DecidableEq, Repr

/-- The Bit Sampler's output for one sample (40_sampler_sync.md R102): 1, 0 or X. -/
inductive Symbol where
  /-- A determinate symbol: 1 (mark) or 0 (space). -/
  | bit (b : Bit)
  /-- X: the sample was exactly zero, negative zero or NaN. -/
  | indet
deriving DecidableEq, Repr

/-- The treatment of X (00_scope.md R8). -/
inductive ZeroPolicy where
  | abort
  | hold
deriving DecidableEq, Repr

/-- A maximal block of equal symbols and its length in samples (00_scope.md R16, 30_encoding.md R80). -/
structure Run where
  sym : Bit
  len : Nat
deriving DecidableEq, Repr

/-- Five digits 0..9 (10_state.md R25): `d0` minutes, `d1` `d2` seconds, `d3` `d4` hundredths, tens first. -/
structure Digits where
  d0 : Fin 10
  d1 : Fin 10
  d2 : Fin 10
  d3 : Fin 10
  d4 : Fin 10
deriving DecidableEq, Repr

/-- Nine bytes, in the order sent (30_encoding.md R73). -/
structure Packet where
  status : Byte
  digit0 : Byte
  digit1 : Byte
  digit2 : Byte
  digit3 : Byte
  digit4 : Byte
  checksum : Byte
  term1 : Byte
  term2 : Byte
deriving DecidableEq, Repr

/-- The two formats of opcode_table.json (30_encoding.md R70): a request carries a host selector and its operands, or a
Signal's status byte and its digits. The byte 0x20 is a legal first byte of both (log 8). -/
inductive Port where
  | hostOp
  | signal
deriving DecidableEq, Repr

/-- The instructions: one constructor per row of opcode_table.json. -/
inductive Instr where
  /-- STATUS_SPACE, 44_timer_fsm.md R191. -/
  | statusSpace (digits : Digits)
  /-- STATUS_S, 44_timer_fsm.md R192. -/
  | statusS (digits : Digits)
  /-- STATUS_I, 44_timer_fsm.md R193. -/
  | statusI (digits : Digits)
  /-- STATUS_L, 44_timer_fsm.md R194. -/
  | statusL (digits : Digits)
  /-- STATUS_R, 44_timer_fsm.md R195. -/
  | statusR (digits : Digits)
  /-- STATUS_C, 44_timer_fsm.md R196. -/
  | statusC (digits : Digits)
  /-- STATUS_A, 44_timer_fsm.md R197. -/
  | statusA (digits : Digits)
  /-- CONSTRUCT, 45_host_ops.md R220: `spb` is the integer pair p/q, `none` where the operand is absent. -/
  | construct (spb : Option (Int × Int)) (policy : ZeroPolicy)
  /-- START, 45_host_ops.md R221. -/
  | start
  /-- STOP, 45_host_ops.md R222. -/
  | stop
  /-- PROCESS_BUFFER, 45_host_ops.md R225. -/
  | processBuffer (buf : List Sample)
  /-- DECODE, 45_host_ops.md R223. -/
  | decode (buf : List Sample)
  /-- APPLY, 44_timer_fsm.md R190: the status is a byte, legal or not (30_encoding.md R82). -/
  | apply (status : Byte) (digits : Digits)
  /-- GET_TIME_STR, 44_timer_fsm.md R200. -/
  | getTimeStr
  /-- GET_TIME_MS, 44_timer_fsm.md R201. -/
  | getTimeMs
  /-- IS_RUNNING, 44_timer_fsm.md R202. -/
  | isRunning
  /-- IS_RESET, 44_timer_fsm.md R203. -/
  | isReset
  /-- IS_LEFT_HAND, 44_timer_fsm.md R204. -/
  | isLeftHand
  /-- IS_RIGHT_HAND, 44_timer_fsm.md R205. -/
  | isRightHand
  /-- GET_DIGITS, 44_timer_fsm.md R206. -/
  | getDigits
  /-- GET_STATE, 44_timer_fsm.md R207. -/
  | getState
  /-- SAMPLE, 40_sampler_sync.md R100. -/
  | sample (buf : List Sample)
  /-- RESOLVE, 40_sampler_sync.md R103 and R104. -/
  | resolve (sym : List Symbol)
  /-- SYNC, 40_sampler_sync.md R110. -/
  | sync (rsym : List Bit)
  /-- RUNS, 41_clock_recovery.md R130. -/
  | runs (seq : List Bit)
  /-- RECOVER, 41_clock_recovery.md R131. -/
  | recover (runs : List Run)
  /-- ASSEMBLE, 42_byte_framer.md R150. -/
  | assemble (bits : List Bit)
  /-- VALIDATE, 43_validator.md R170. -/
  | validate (pkt : Packet)
deriving DecidableEq, Repr

end Sys2Proof
end

