-- ==== Sys2Proof/Decode.lean ====
section
/-! DEFINITION. Decode.lean: from the bytes of a request to an instruction, total on any bytes and rejecting by name, and
the encoder. The first byte is the selector of 30_encoding.md R79 (port `hostOp`) or the status code of R74 (port
`signal`); the operands follow in the order listed (R84). The byte format of the operands is the model's own, a DESIGN
CHOICE (log 6): an element of 0..255 is one byte; a natural number is base-128 digits, least significant first, the top
bit set on all but the last; an integer z is the natural 2z (z ≥ 0) or -2z-1 (z < 0); a sequence is its length, then its
elements; a sample is a tag byte, with numerator and denominator after tag 0. -/

namespace Sys2Proof

/-- Why a request does not decode (30_encoding.md R82: it is refused at the interface). -/
inductive DecodeError where
  /-- The request has no byte at all. -/
  | emptyRequest
  /-- The selector is not one of 30_encoding.md R79. -/
  | unassignedSelector
  /-- On the Signal port, the first byte is none of the seven status codes. -/
  | unassignedStatus
  /-- The request ends inside an operand. -/
  | truncated
  /-- An operand byte lies outside the operand's form (30_encoding.md R80). -/
  | illegalOperand
  /-- Bytes follow the last operand. -/
  | trailingBytes
deriving DecidableEq, Repr

/-! ### Reading operands: each reader answers the value and the bytes that remain -/

def takeByte : List Byte → Except DecodeError (Byte × List Byte)
  | [] => .error .truncated
  | b :: r => .ok (b, r)

/-- A natural number, seven bits a byte, least significant first. -/
def takeNat : List Byte → Except DecodeError (Nat × List Byte)
  | [] => .error .truncated
  | b :: r =>
    if b.toNat < 128 then .ok (b.toNat, r)
    else match takeNat r with
      | .error e => .error e
      | .ok (n, r') => .ok (b.toNat - 128 + 128 * n, r')

/-- The integer a natural number stands for: even numbers are the non-negative ones. -/
def intOfNat (n : Nat) : Int := if n % 2 = 0 then Int.ofNat (n / 2) else Int.negSucc (n / 2)

def takeInt (bytes : List Byte) : Except DecodeError (Int × List Byte) :=
  match takeNat bytes with
  | .error e => .error e
  | .ok (n, r) => .ok (intOfNat n, r)

/-- A symbol over 0 and 1. -/
def takeBit : List Byte → Except DecodeError (Bit × List Byte)
  | [] => .error .truncated
  | b :: r => if b = 0 then .ok (false, r) else if b = 1 then .ok (true, r) else .error .illegalOperand

/-- A symbol over 0, 1 and X; X is the value 2 (30_encoding.md R80). -/
def takeSymbol : List Byte → Except DecodeError (Symbol × List Byte)
  | [] => .error .truncated
  | b :: r =>
    if b = 0 then .ok (.bit false, r) else if b = 1 then .ok (.bit true, r)
    else if b = 2 then .ok (.indet, r) else .error .illegalOperand

/-- zero_policy: 0 = ABORT, 1 = HOLD (30_encoding.md R79). -/
def takePolicy : List Byte → Except DecodeError (ZeroPolicy × List Byte)
  | [] => .error .truncated
  | b :: r => if b = 0 then .ok (.abort, r) else if b = 1 then .ok (.hold, r) else .error .illegalOperand

/-- A sample: tag 0 and a quotient of two integers, or one of the four special values. -/
def takeSample : List Byte → Except DecodeError (Sample × List Byte)
  | [] => .error .truncated
  | b :: r =>
    if b = 0 then
      match takeInt r with
      | .error e => .error e
      | .ok (num, r') =>
        match takeNat r' with
        | .error e => .error e
        | .ok (den, r'') => if den = 0 then .error .illegalOperand else .ok (.finite (mkRat num den), r'')
    else if b = 1 then .ok (.negZero, r)
    else if b = 2 then .ok (.posInf, r)
    else if b = 3 then .ok (.negInf, r)
    else if b = 4 then .ok (.nan, r)
    else .error .illegalOperand

/-- A run: its symbol, then its length. -/
def takeRun (bytes : List Byte) : Except DecodeError (Run × List Byte) :=
  match takeBit bytes with
  | .error e => .error e
  | .ok (sym, r) =>
    match takeNat r with
    | .error e => .error e
    | .ok (len, r') => .ok (⟨sym, len⟩, r')

/-- A digit 0..9, one byte. -/
def takeDigit : List Byte → Except DecodeError (Fin 10 × List Byte)
  | [] => .error .truncated
  | b :: r => if h : b.toNat < 10 then .ok (⟨b.toNat, h⟩, r) else .error .illegalOperand

/-- Five digits, digits[0] first. -/
def takeDigits (bytes : List Byte) : Except DecodeError (Digits × List Byte) := do
  let (d0, r) ← takeDigit bytes
  let (d1, r) ← takeDigit r
  let (d2, r) ← takeDigit r
  let (d3, r) ← takeDigit r
  let (d4, r) ← takeDigit r
  return (⟨d0, d1, d2, d3, d4⟩, r)

/-- Nine bytes, packet byte 0 first. -/
def takePacket : List Byte → Except DecodeError (Packet × List Byte)
  | b0 :: b1 :: b2 :: b3 :: b4 :: b5 :: b6 :: b7 :: b8 :: r => .ok (⟨b0, b1, b2, b3, b4, b5, b6, b7, b8⟩, r)
  | _ => .error .truncated

/-- `n` elements read by `take`. -/
def takeMany {α : Type} (take : List Byte → Except DecodeError (α × List Byte)) :
    Nat → List Byte → Except DecodeError (List α × List Byte)
  | 0, r => .ok ([], r)
  | n + 1, r =>
    match take r with
    | .error e => .error e
    | .ok (x, r') =>
      match takeMany take n r' with
      | .error e => .error e
      | .ok (xs, r'') => .ok (x :: xs, r'')

/-- A sequence: its length, then its elements. -/
def takeSeq {α : Type} (take : List Byte → Except DecodeError (α × List Byte)) (bytes : List Byte) :
    Except DecodeError (List α × List Byte) :=
  match takeNat bytes with
  | .error e => .error e
  | .ok (n, r) => takeMany take n r

/-- Builds an instruction from an operand that has been read. -/
def withOperand {α : Type} (make : α → Instr) :
    Except DecodeError (α × List Byte) → Except DecodeError (Instr × List Byte)
  | .error e => .error e
  | .ok (x, r) => .ok (make x, r)

/-- CONSTRUCT's operands (30_encoding.md R79, R80): spb is absent where the request ends after the selector, and the
policy is ABORT where the request ends after spb (log 6). -/
def decodeConstruct (bytes : List Byte) : Except DecodeError (Instr × List Byte) :=
  match bytes with
  | [] => .ok (.construct none .abort, [])
  | _ :: _ =>
    match takeInt bytes with
    | .error e => .error e
    | .ok (p, r) =>
      match takeInt r with
      | .error e => .error e
      | .ok (q, r') =>
        match r' with
        | [] => .ok (.construct (some (p, q)) .abort, [])
        | _ :: _ => withOperand (.construct (some (p, q))) (takePolicy r')

/-- APPLY's operands: the status byte, then the five digits. -/
def decodeApply (bytes : List Byte) : Except DecodeError (Instr × List Byte) :=
  match takeByte bytes with
  | .error e => .error e
  | .ok (status, r) => withOperand (.apply status) (takeDigits r)

/-- A host operation, by its selector (30_encoding.md R79). -/
def decodeHostOp (selector : Byte) (operands : List Byte) : Except DecodeError (Instr × List Byte) :=
  match selector.toNat with
  | 0x01 => decodeConstruct operands
  | 0x02 => .ok (.start, operands)
  | 0x03 => .ok (.stop, operands)
  | 0x04 => withOperand .processBuffer (takeSeq takeSample operands)
  | 0x05 => withOperand .decode (takeSeq takeSample operands)
  | 0x06 => decodeApply operands
  | 0x10 => .ok (.getTimeStr, operands)
  | 0x11 => .ok (.getTimeMs, operands)
  | 0x12 => .ok (.isRunning, operands)
  | 0x13 => .ok (.isReset, operands)
  | 0x14 => .ok (.isLeftHand, operands)
  | 0x15 => .ok (.isRightHand, operands)
  | 0x16 => .ok (.getDigits, operands)
  | 0x17 => .ok (.getState, operands)
  | 0x20 => withOperand .sample (takeSeq takeSample operands)
  | 0x21 => withOperand .resolve (takeSeq takeSymbol operands)
  | 0x22 => withOperand .sync (takeSeq takeBit operands)
  | 0x23 => withOperand .runs (takeSeq takeBit operands)
  | 0x24 => withOperand .recover (takeSeq takeRun operands)
  | 0x25 => withOperand .assemble (takeSeq takeBit operands)
  | 0x26 => withOperand .validate (takePacket operands)
  | _ => .error .unassignedSelector

/-- A Signal, by its status code (30_encoding.md R74). -/
def decodeSignal (status : Byte) (digits : List Byte) : Except DecodeError (Instr × List Byte) :=
  match status.toNat with
  | 0x20 => withOperand .statusSpace (takeDigits digits)
  | 0x53 => withOperand .statusS (takeDigits digits)
  | 0x49 => withOperand .statusI (takeDigits digits)
  | 0x4C => withOperand .statusL (takeDigits digits)
  | 0x52 => withOperand .statusR (takeDigits digits)
  | 0x43 => withOperand .statusC (takeDigits digits)
  | 0x41 => withOperand .statusA (takeDigits digits)
  | _ => .error .unassignedStatus

/-- The instruction at the front of some bytes, and the bytes after it. -/
def decodePrefix (port : Port) : List Byte → Except DecodeError (Instr × List Byte)
  | [] => .error .emptyRequest
  | first :: rest =>
    match port with
    | .hostOp => decodeHostOp first rest
    | .signal => decodeSignal first rest

/-- The instruction a whole request stands for: nothing may follow its last operand. -/
def decode (port : Port) (bytes : List Byte) : Except DecodeError Instr :=
  match decodePrefix port bytes with
  | .error e => .error e
  | .ok (i, []) => .ok i
  | .ok (_, _ :: _) => .error .trailingBytes

/-! ### The encoder -/

/-- Base-128 digits; `fuel` bounds the number of digits after the first. -/
def encodeNatFuel : Nat → Nat → List Byte
  | 0, n => [BitVec.ofNat 8 n]
  | fuel + 1, n =>
    if n < 128 then [BitVec.ofNat 8 n] else BitVec.ofNat 8 (128 + n % 128) :: encodeNatFuel fuel (n / 128)

def encodeNat (n : Nat) : List Byte := encodeNatFuel n.log2 n

/-- The natural number an integer is sent as. -/
def natOfInt : Int → Nat
  | .ofNat n => 2 * n
  | .negSucc n => 2 * n + 1

def encodeInt (z : Int) : List Byte := encodeNat (natOfInt z)

def encodeBit (b : Bit) : List Byte := [if b then 1 else 0]

def encodeSymbol : Symbol → List Byte
  | .bit b => encodeBit b
  | .indet => [2]

def encodePolicy : ZeroPolicy → List Byte
  | .abort => [0]
  | .hold => [1]

def encodeSample : Sample → List Byte
  | .finite x => 0 :: (encodeInt x.num ++ encodeNat x.den)
  | .negZero => [1]
  | .posInf => [2]
  | .negInf => [3]
  | .nan => [4]

def encodeRun (r : Run) : List Byte := encodeBit r.sym ++ encodeNat r.len

def encodeDigit (d : Fin 10) : Byte := BitVec.ofNat 8 d.val

def encodeDigits (d : Digits) : List Byte :=
  [encodeDigit d.d0, encodeDigit d.d1, encodeDigit d.d2, encodeDigit d.d3, encodeDigit d.d4]

/-- The nine bytes in the order sent (30_encoding.md R73). -/
def packetBytes (p : Packet) : List Byte :=
  [p.status, p.digit0, p.digit1, p.digit2, p.digit3, p.digit4, p.checksum, p.term1, p.term2]

def encodeSeq {α : Type} (enc : α → List Byte) (xs : List α) : List Byte :=
  encodeNat xs.length ++ xs.flatMap enc

def encodeConstruct (spb : Option (Int × Int)) (policy : ZeroPolicy) : List Byte :=
  match spb with
  | none => []
  | some (p, q) => encodeInt p ++ (encodeInt q ++ encodePolicy policy)

/-- The port an instruction's request comes in at: a STATUS row is a Signal, a HOSTOP row a host operation. -/
def portOf : Instr → Port
  | .statusSpace _ => .signal
  | .statusS _ => .signal
  | .statusI _ => .signal
  | .statusL _ => .signal
  | .statusR _ => .signal
  | .statusC _ => .signal
  | .statusA _ => .signal
  | .construct _ _ => .hostOp
  | .start => .hostOp
  | .stop => .hostOp
  | .processBuffer _ => .hostOp
  | .decode _ => .hostOp
  | .apply _ _ => .hostOp
  | .getTimeStr => .hostOp
  | .getTimeMs => .hostOp
  | .isRunning => .hostOp
  | .isReset => .hostOp
  | .isLeftHand => .hostOp
  | .isRightHand => .hostOp
  | .getDigits => .hostOp
  | .getState => .hostOp
  | .sample _ => .hostOp
  | .resolve _ => .hostOp
  | .sync _ => .hostOp
  | .runs _ => .hostOp
  | .recover _ => .hostOp
  | .assemble _ => .hostOp
  | .validate _ => .hostOp

/-- The bytes of an instruction: its byte of opcode_table.json, then its operands in the order of 30_encoding.md R79. -/
def encode : Instr → List Byte
  | .statusSpace d => 0x20 :: encodeDigits d
  | .statusS d => 0x53 :: encodeDigits d
  | .statusI d => 0x49 :: encodeDigits d
  | .statusL d => 0x4C :: encodeDigits d
  | .statusR d => 0x52 :: encodeDigits d
  | .statusC d => 0x43 :: encodeDigits d
  | .statusA d => 0x41 :: encodeDigits d
  | .construct spb policy => 0x01 :: encodeConstruct spb policy
  | .start => [0x02]
  | .stop => [0x03]
  | .processBuffer buf => 0x04 :: encodeSeq encodeSample buf
  | .decode buf => 0x05 :: encodeSeq encodeSample buf
  | .apply status d => 0x06 :: status :: encodeDigits d
  | .getTimeStr => [0x10]
  | .getTimeMs => [0x11]
  | .isRunning => [0x12]
  | .isReset => [0x13]
  | .isLeftHand => [0x14]
  | .isRightHand => [0x15]
  | .getDigits => [0x16]
  | .getState => [0x17]
  | .sample buf => 0x20 :: encodeSeq encodeSample buf
  | .resolve sym => 0x21 :: encodeSeq encodeSymbol sym
  | .sync rsym => 0x22 :: encodeSeq encodeBit rsym
  | .runs seq => 0x23 :: encodeSeq encodeBit seq
  | .recover runs => 0x24 :: encodeSeq encodeRun runs
  | .assemble bits => 0x25 :: encodeSeq encodeBit bits
  | .validate pkt => 0x26 :: packetBytes pkt

/-! ### The host's view of the table: an instruction given as one number -/

/-- The first `nbits` bits of `w`, first byte least significant, then bytes of zero for the operands (the longest
instruction of zero operands, VALIDATE, has nine). -/
def tableBytes (nbits w : Nat) : List Byte :=
  (List.range (nbits / 8)).map (fun k => BitVec.ofNat 8 (w / 256 ^ k)) ++ List.replicate 16 0

/-- Reads one instruction at a port: the instruction and the bytes it takes. -/
def readAt (port : Port) (bytes : List Byte) : Option (Instr × List Byte) :=
  match decodePrefix port bytes with
  | .error _ => none
  | .ok (i, rest) => some (i, bytes.take (bytes.length - rest.length))

/-- The instruction, its port and its bytes. The table's numbers name no port: a byte that is a host selector is read as
one, any other as a status code. 0x20 is both (SAMPLE and STATUS_SPACE) and is read as SAMPLE (log 8). -/
def readTableWord (nbits w : Nat) : Option (Instr × Port × List Byte) :=
  match readAt .hostOp (tableBytes nbits w) with
  | some (i, bytes) => some (i, .hostOp, bytes)
  | none =>
    match readAt .signal (tableBytes nbits w) with
    | some (i, bytes) => some (i, .signal, bytes)
    | none => none

/-- The instruction the decoder reads from a row of opcode_table.json whose bits are `w`. -/
def decodeTableWord (nbits w : Nat) : Option Instr :=
  match readTableWord nbits w with
  | some (i, _, _) => some i
  | none => none

end Sys2Proof
end

