-- ==== Sys2Proof/Machine/State.lean ====
section
/-! DEFINITION. Machine/State.lean: the state of the block as 10_state.md gives it, the host interface beside it as plain
data, the reasons a request is refused, and the state right after reset. -/

namespace Sys2Proof.Machine

/-- The Timer State registers (10_state.md R24, R25), also the snapshot of GET_STATE and of the observer (44_timer_fsm.md
R207, 45_host_ops.md R227). -/
structure Timer where
  /-- `S.running`. -/
  running : Bool
  /-- `S.reset`. -/
  reset : Bool
  /-- `S.left`. -/
  left : Bool
  /-- `S.right`. -/
  right : Bool
  /-- `S.digits[0..4]`. -/
  digits : Digits
deriving DecidableEq, Repr

/-- The block state `S` (10_state.md R20): configuration, capture mode, Timer State. -/
structure Block where
  /-- `S.spb`, samples per bit, an exact rational (10_state.md R22). -/
  spb : ℚ
  /-- `S.zero_policy` (10_state.md R22). -/
  zeroPolicy : ZeroPolicy
  /-- `S.capturing` (10_state.md R23). -/
  capturing : Bool
  timer : Timer
deriving DecidableEq, Repr

/-- A Signal (10_state.md R29): the status held as its byte code (43_validator.md R176), and five digits. -/
structure Signal where
  status : Byte
  digits : Digits
deriving DecidableEq, Repr

/-- What one delivery to the observer carries (45_host_ops.md R227). -/
structure Emission where
  signal : Signal
  snapshot : Timer
deriving DecidableEq, Repr

/-- The result codes other than OK, with the information each records (60_exceptions.md R250). -/
inductive Failure where
  | ignored
  | syncMiss
  | incomplete (len : Nat)
  | invalid
  | indeterminate (index : Nat)
  | configError
deriving DecidableEq, Repr

/-- What an operation that ends with OK hands back (30_encoding.md R79). -/
inductive Value where
  | unit
  | bool (b : Bool)
  | nat (n : Nat)
  | bytes (bs : List Byte)
  | digits (d : Digits)
  | timer (t : Timer)
  | signal (sig : Signal)
  /-- PROCESS_BUFFER's OK_SIGNAL: the Signal applied and the snapshot after it. -/
  | emission (e : Emission)
  | symbols (sym : List Symbol)
  | bits (bits : List Bit)
  | index (k : Nat)
  | runs (rs : List Run)
  | packet (p : Packet)
deriving DecidableEq, Repr

/-- How a host operation ends (60_exceptions.md R250). -/
inductive Result where
  | ok (v : Value)
  | fail (f : Failure)
deriving DecidableEq, Repr

/-- How the host issued an operation. Only `serial` has a meaning (20_memory.md R61); the other two are refused
(70_reset_and_hazards.md R284, R288; log 13). -/
inductive Issue where
  /-- After the operation before it ended. -/
  | serial
  /-- While another operation on the block was in progress. -/
  | overlapping
  /-- By the observer, while it was being delivered to. -/
  | reentrant
deriving DecidableEq, Repr

/-- One operation issued by the host: where it comes in, how it was issued, and its bytes (30_encoding.md R84). -/
structure Request where
  port : Port
  issue : Issue
  bytes : List Byte
deriving DecidableEq, Repr

/-- The block, its one open parameter, and the host interface. -/
structure State where
  /-- The block; `none` where no block exists (45_host_ops.md R229, R231; 60_exceptions.md R253). -/
  block : Option Block
  /-- MAX_BUFFER_LEN, `none` for no bound: an open parameter (00_scope.md R9); no operation writes it (log 12). -/
  maxBufferLen : Option Nat
  /-- The MODEL's own: the operations issued and not yet run, oldest first (20_memory.md R61; log 4). -/
  pending : List Request
  /-- The MODEL's own: what the last operation handed its caller; no operation reads it (60_exceptions.md R250; log 5). -/
  result : Result
  /-- The MODEL's own: what the observer has been given so far, oldest first (45_host_ops.md R227; log 5). -/
  delivered : List Emission
deriving DecidableEq, Repr

/-- The block has no trap mechanism and no case of the spec is a fault (60_exceptions.md R251,
93_implementation_defined.md part 2): there is no constructor, so no step can end in a fault. -/
inductive Fault where
deriving DecidableEq, Repr

/-- Why a request is refused: the operation does not happen (30_encoding.md R82, 93_implementation_defined.md M1 to M6).
Each refusal is safe: the spec gives the request no meaning. -/
inductive Refusal where
  /-- Raised by `exec`'s arm of an instruction that has no meaning yet (none in this package). Safe. -/
  | notModelled (mnemonic : String)
  /-- Raised by every operation but CONSTRUCT where no block exists (93 M4). Safe. -/
  | noBlock
  /-- Raised by the fetch: the bytes are no operation with operands of its form (93 M6). Safe. -/
  | undecodable (e : DecodeError)
  /-- Raised by APPLY: the status byte is none of the seven (93 M5). Safe. -/
  | illegalSignal
  /-- Raised by RECOVER: a run of length 0 in the operand (30_encoding.md R80, 93 M6). Safe. -/
  | illegalRunList
  /-- Raised by SAMPLE, DECODE and PROCESS_BUFFER: the buffer is longer than MAX_BUFFER_LEN (93 M3). Safe. -/
  | bufferTooLong
  /-- Raised by the fetch: the operation overlaps another one (93 M1). Safe. -/
  | overlappingOperation
  /-- Raised by the fetch: the observer called the block while being delivered to (93 M2). Safe. -/
  | reentrantOperation
deriving DecidableEq, Repr

/-- The machine right after reset. Reset is CONSTRUCT (70_reset_and_hazards.md R280), so a block exists, with the values
of 10_state.md R30. Named by the model: the CONSTRUCT operand (log 1: `Config.resetSpb`; ABORT is the spec's own default),
no bound on buffers (log 12), and an empty host interface whose result is that construction's OK (log 4, log 5). -/
def State.reset : State where
  block := some {
    spb := Config.resetSpb
    zeroPolicy := .abort
    capturing := false
    timer := { running := false, reset := true, left := false, right := false, digits := ⟨0, 0, 0, 0, 0⟩ } }
  maxBufferLen := none
  pending := []
  result := .ok .unit
  delivered := []

end Sys2Proof.Machine
end

