-- ==== Sys2Proof/Machine/Flags.lean ====
section
/-! DEFINITION. Machine/Flags.lean: the four timer flags. Every Signal clears both hands (step 1 of 44_timer_fsm.md R190),
then its status sets or clears flags (step 2), then the digits are written (step 3, R198). -/

namespace Sys2Proof.Machine

/-- Step 1 of APPLY: both hand flags false, whatever the status. -/
def clearHands (t : Timer) : Timer := { t with left := false, right := false }

/-- Step 3 of APPLY: the whole digit file (44_timer_fsm.md R198). -/
def writeDigits (d : Digits) (t : Timer) : Timer := { t with digits := d }

/-- Step 2 for ' ' (44_timer_fsm.md R191). -/
def flagsSpace (t : Timer) : Timer := { t with running := true, reset := false }

/-- Step 2 for 'S' (44_timer_fsm.md R192). -/
def flagsS (t : Timer) : Timer := { t with running := false, reset := false }

/-- Step 2 for 'I' (44_timer_fsm.md R193). -/
def flagsI (t : Timer) : Timer := { t with running := false, reset := true }

/-- Step 2 for 'L' (44_timer_fsm.md R194). -/
def flagsL (t : Timer) : Timer := { t with left := true }

/-- Step 2 for 'R' (44_timer_fsm.md R195). -/
def flagsR (t : Timer) : Timer := { t with right := true }

/-- Step 2 for 'C' (44_timer_fsm.md R196): reset is not written. -/
def flagsC (t : Timer) : Timer := { t with running := false, left := true, right := true }

/-- Step 2 for 'A' (44_timer_fsm.md R197): no flag changes. -/
def flagsA (t : Timer) : Timer := t

/-- Step 2 of APPLY, by the status byte; any other byte acts as 'A' (44_timer_fsm.md R190, R197; 92 D14). -/
def flagsFor (status : Byte) (t : Timer) : Timer :=
  if status = codeSpace then flagsSpace t
  else if status = codeS then flagsS t
  else if status = codeI then flagsI t
  else if status = codeL then flagsL t
  else if status = codeR then flagsR t
  else if status = codeC then flagsC t
  else if status = codeA then flagsA t
  else flagsA t

/-- One arm of APPLY: clear the hands, the arm's flags, the digits (44_timer_fsm.md R190). -/
def timerArm (flags : Timer → Timer) (d : Digits) (t : Timer) : Timer := writeDigits d (flags (clearHands t))

/-- The whole transition of APPLY (44_timer_fsm.md R190). -/
def applySignal (sig : Signal) (t : Timer) : Timer := timerArm (flagsFor sig.status) sig.digits t

end Sys2Proof.Machine
end

