-- ==== Sys2Proof/Machine/Operands.lean ====
section
/-! DEFINITION. Machine/Operands.lean: the sample domain of 10_state.md R27 and the operand forms of 30_encoding.md R80
that an operation checks before it happens (R82). -/

namespace Sys2Proof.Machine

/-- The classification `cls` of a sample (10_state.md R27). -/
inductive SignClass where
  | neg
  | pos
  | zero
deriving DecidableEq, Repr

/-- Only the sign of a sample is used; negative zero and NaN are ZERO (10_state.md R27). -/
def classify : Sample → SignClass
  | .finite x => if x < 0 then .neg else if 0 < x then .pos else .zero
  | .negZero => .zero
  | .posInf => .pos
  | .negInf => .neg
  | .nan => .zero

/-- Whether CONSTRUCT accepts p/q as a samples-per-bit (45_host_ops.md R220, 60_exceptions.md R253): q ≠ 0
and the value p/q positive. R80 of 30_encoding.md defers to R253 (90_conflicts.md C8), so a pair of two negative integers
is accepted too (DEDUCED, log 9). -/
def usableSpb (p q : Int) : Bool := decide (q ≠ 0 ∧ 0 < (p : ℚ) / (q : ℚ))

/-- Whether a buffer is within MAX_BUFFER_LEN (00_scope.md R9). -/
def bufferFits (s : State) (buf : List Sample) : Bool :=
  match s.maxBufferLen with
  | none => true
  | some n => decide (buf.length ≤ n)

/-- A run list whose every run has length ≥ 1 (30_encoding.md R80). -/
def legalRuns (rs : List Run) : Bool := rs.all fun r => decide (1 ≤ r.len)

end Sys2Proof.Machine
end

