-- ==== Sys2Proof/Machine/Ops.lean ====
section
/-! DEFINITION. Machine/Ops.lean: the shared operations. The block has no memory, no register file and no trap (20_memory.md
R50, 60_exceptions.md R251); what every operation shares is the block it needs (45_host_ops.md R229), how it ends
(60_exceptions.md R250) and how it is fetched from the host's queue. -/

namespace Sys2Proof.Machine

/-- What a step answers. -/
abbrev Answer := Host.Outcome State Fault Refusal

/-! ### Updates -/

def State.withBlock (s : State) (b : Option Block) : State := { s with block := b }

def State.withResult (s : State) (r : Result) : State := { s with result := r }

def State.withPending (s : State) (rs : List Request) : State := { s with pending := rs }

/-- Delivers to the observer: the delivery is a copy that nothing changes later (20_memory.md R63). -/
def State.emit (s : State) (e : Emission) : State := { s with delivered := s.delivered ++ [e] }

def Block.withCapturing (b : Block) (on : Bool) : Block := { b with capturing := on }

def Block.withTimer (b : Block) (t : Timer) : Block := { b with timer := t }

/-! ### How an operation ends (60_exceptions.md R250) -/

/-- Code 0: the operation ends with a value. -/
def finish (s : State) (v : Value) : Answer := .next (s.withResult (.ok v))

/-- `raise` of 00_scope.md R14: the operation ends at once with a code other than OK; nothing else is written and
nothing is delivered. There is no handler, saved state or vector (60_exceptions.md R251). -/
def raise (s : State) (f : Failure) : Answer := .next (s.withResult (.fail f))

/-- Ends with a stage's value or with the code it raised. -/
def settle (s : State) (r : Except Failure Value) : Answer :=
  match r with
  | .ok v => finish s v
  | .error f => raise s f

/-- The number of a result code (60_exceptions.md R250). -/
def resultCode : Result → Nat
  | .ok _ => 0
  | .fail .ignored => 1
  | .fail .syncMiss => 2
  | .fail (.incomplete _) => 3
  | .fail .invalid => 4
  | .fail (.indeterminate _) => 5
  | .fail .configError => 6

/-! ### What an operation needs -/

/-- Every operation but CONSTRUCT needs a block (45_host_ops.md R229) and is refused without one (30_encoding.md R82). -/
def onBlock (s : State) (k : Block → Answer) : Answer :=
  match s.block with
  | none => .refused .noBlock
  | some b => k b

/-- An operation on a sample buffer: refused where the buffer is longer than MAX_BUFFER_LEN, and that before the
operation does anything (93_implementation_defined.md M3; log 12). -/
def onBuffer (s : State) (buf : List Sample) (k : Block → Answer) : Answer :=
  onBlock s fun b => if bufferFits s buf then k b else .refused .bufferTooLong

/-- A read-only view of the block (20_memory.md R59): it only ends with a value. -/
def view (s : State) (f : Block → Value) : Answer := onBlock s fun b => finish s (f b)

/-- Replaces the block and ends with OK. -/
def update (s : State) (f : Block → Block) : Answer :=
  onBlock s fun b => finish (s.withBlock (some (f b))) .unit

/-- Runs one arm of the timer state machine on the block (44_timer_fsm.md R190). -/
def runArm (s : State) (flags : Timer → Timer) (d : Digits) : Answer :=
  update s fun b => b.withTimer (timerArm flags d b.timer)

/-! ### Fetching -/

/-- The instruction of a request: serial requests are decoded, the others refused (70_reset_and_hazards.md R284, R288). -/
def fetchInstr (r : Request) : Except Refusal Instr :=
  match r.issue with
  | .overlapping => .error .overlappingOperation
  | .reentrant => .error .reentrantOperation
  | .serial =>
    match decode r.port r.bytes with
    | .ok i => .ok i
    | .error e => .error (.undecodable e)

end Sys2Proof.Machine
end

