-- ==== Sys2Proof/Machine/Clock.lean ====
section
/-! DEFINITION. Machine/Clock.lean: the stage `run_length_clock_recovery` (41_clock_recovery.md): RUNS, RECOVER. -/

namespace Sys2Proof.Machine

/-- Puts one symbol in front of a run list: it joins a first run of its own symbol. -/
def consRun (b : Bit) : List Run → List Run
  | [] => [⟨b, 1⟩]
  | r :: rest => if r.sym = b then ⟨b, r.len + 1⟩ :: rest else ⟨b, 1⟩ :: r :: rest

/-- RUNS: coalesces consecutive equal symbols (41_clock_recovery.md R130). -/
def runsOf : List Bit → List Run
  | [] => []
  | b :: rest => consRun b (runsOf rest)

/-- The nearest integer, a tie going up (00_scope.md R13). -/
def roundHalfUp (x : ℚ) : ℤ := ⌊x + 1 / 2⌋

/-- The bit periods of a run of `n` samples (41_clock_recovery.md R131). -/
def bitPeriods (spb : ℚ) (n : Nat) : Nat := (roundHalfUp ((n : ℚ) / spb)).toNat

/-- RECOVER: every run expanded to its bit periods, in order; nothing is merged (41_clock_recovery.md R131, R133). -/
def recoverBits (spb : ℚ) (rs : List Run) : List Bit :=
  rs.flatMap fun r => List.replicate (bitPeriods spb r.len) r.sym

end Sys2Proof.Machine
end

