-- ==== Sys2Proof/Machine/Framer.lean ====
section
/-! DEFINITION. Machine/Framer.lean: the stage `byte_deserializer_framer` (42_byte_framer.md): ASSEMBLE. -/

namespace Sys2Proof.Machine

/-- The value of eight bit periods read from offset `at_`, the first of weight 1 (42_byte_framer.md R150). Inside a
complete stream no read falls outside (20_memory.md R50). -/
def byteFrom (d : List Bit) (at_ : Nat) : Byte :=
  BitVec.ofNat 8 ((List.range 8).map fun k => (d.getD (at_ + k) false).toNat * 2 ^ k).sum

/-- Byte `i` of the packet, read at the stride of one character (42_byte_framer.md R152). -/
def packetByte (d : List Bit) (i : Nat) : Byte := byteFrom d (periodsPerChar * i)

/-- The nine bytes of a stream whose leading start bit has been dropped (42_byte_framer.md R150). -/
def readPacket (d : List Bit) : Packet where
  status := packetByte d 0
  digit0 := packetByte d 1
  digit1 := packetByte d 2
  digit2 := packetByte d 3
  digit3 := packetByte d 4
  digit4 := packetByte d 5
  checksum := packetByte d 6
  term1 := packetByte d 7
  term2 := packetByte d 8

/-- ASSEMBLE: INCOMPLETE below 91 bit periods, else the packet after the first bit, whatever that bit is
(42_byte_framer.md R150, R151, R155). -/
def assemble (bits : List Bit) : Except Failure Packet :=
  if bits.length < minStreamPeriods then .error (.incomplete bits.length)
  else .ok (readPacket (bits.drop 1))

end Sys2Proof.Machine
end

