-- ==== Sys2Proof/Machine/Sampler.lean ====
section
/-! DEFINITION. Machine/Sampler.lean: the stage `bit_threshold_sampler` (40_sampler_sync.md): SAMPLE, RESOLVE, SYNC. -/

namespace Sys2Proof.Machine

/-- Negative is mark, positive is space, zero is X (40_sampler_sync.md R100). -/
def sampleSymbol (x : Sample) : Symbol :=
  match classify x with
  | .neg => .bit true
  | .pos => .bit false
  | .zero => .indet

/-- SAMPLE: elementwise, in order (40_sampler_sync.md R100). -/
def sampleBuffer (buf : List Sample) : List Symbol := buf.map sampleSymbol

/-- RESOLVE under ABORT, from index `i` on: the first X ends the operation (40_sampler_sync.md R103). -/
def resolveAbort : Nat → List Symbol → Except Failure (List Bit)
  | _, [] => .ok []
  | i, .indet :: _ => .error (.indeterminate i)
  | i, .bit b :: rest =>
    match resolveAbort (i + 1) rest with
    | .ok bs => .ok (b :: bs)
    | .error f => .error f

/-- RESOLVE under HOLD, after the symbol `prev`: X continues it (40_sampler_sync.md R104). -/
def resolveHold : Bit → List Symbol → List Bit
  | _, [] => []
  | prev, .indet :: rest => prev :: resolveHold prev rest
  | _, .bit b :: rest => b :: resolveHold b rest

/-- RESOLVE: by the policy; under HOLD the symbol before the first is mark (40_sampler_sync.md R103, R104). -/
def resolve (policy : ZeroPolicy) (sym : List Symbol) : Except Failure (List Bit) :=
  match policy with
  | .abort => resolveAbort 0 sym
  | .hold => .ok (resolveHold true sym)

/-- The arming comparison, strict and exact (40_sampler_sync.md R110, R111). -/
def arms (spb : ℚ) (count : Nat) : Bool := decide ((armingPeriods : ℚ) * spb < (count : ℚ))

/-- SYNC from index `i` on, with the counter and the armed flag of 40_sampler_sync.md R110. -/
def syncScan (spb : ℚ) : Nat → Nat → Bool → List Bit → Option Nat
  | _, _, _, [] => none
  | i, count, armed, true :: rest => syncScan spb (i + 1) (count + 1) (armed || arms spb (count + 1)) rest
  | i, _, armed, false :: rest => if armed then some i else syncScan spb (i + 1) 0 armed rest

/-- SYNC: the synchronisation point, or SYNC_MISS (40_sampler_sync.md R110, R113). -/
def sync (spb : ℚ) (rsym : List Bit) : Except Failure Nat :=
  match syncScan spb 0 0 false rsym with
  | some k => .ok k
  | none => .error .syncMiss

end Sys2Proof.Machine
end

