-- ==== Sys2Proof/Machine/Validator.lean ====
section
/-! DEFINITION. Machine/Validator.lean: the stage `crc_validator` (43_validator.md): VALIDATE. The check is an additive
checksum over the integers, not a CRC (90_conflicts.md C4). -/

namespace Sys2Proof.Machine

/-- The five digit bytes, packet bytes 1 to 5. -/
def digitBytes (p : Packet) : List Byte := [p.digit0, p.digit1, p.digit2, p.digit3, p.digit4]

/-- Status rule (43_validator.md R171). -/
def okStatus (p : Packet) : Bool := isStatusCode p.status

/-- An ASCII digit code, as an integer range (43_validator.md R172). -/
def isDigitByte (b : Byte) : Bool := decide (digitOffset ≤ b.toNat ∧ b.toNat ≤ digitOffset + 9)

/-- Digit rule (43_validator.md R172). -/
def okDigits (p : Packet) : Bool := (digitBytes p).all isDigitByte

/-- Σ (byte − 48) over the five digit bytes, over the integers (43_validator.md R173). -/
def digitSum (p : Packet) : Int := ((digitBytes p).map fun b => (b.toNat : Int) - (digitOffset : Int)).sum

/-- Checksum rule (43_validator.md R173). -/
def okSum (p : Packet) : Bool := decide (digitSum p = (p.checksum.toNat : Int) - (checksumOffset : Int))

/-- Terminator rule (43_validator.md R174). -/
def okTerm (p : Packet) : Bool := decide (p.term1 = lineFeed ∧ p.term2 = carriageReturn)

/-- byte − 48 (43_validator.md R176); only ever used on a digit byte, where nothing wraps. -/
def digitValue (b : Byte) : Fin 10 := Fin.ofNat 10 (b.toNat - digitOffset)

/-- The Signal of a valid packet (43_validator.md R176). -/
def signalOf (p : Packet) : Signal where
  status := p.status
  digits := ⟨digitValue p.digit0, digitValue p.digit1, digitValue p.digit2, digitValue p.digit3, digitValue p.digit4⟩

/-- VALIDATE: all rules are required and no cause is reported (43_validator.md R170, R175). -/
def validate (p : Packet) : Except Failure Signal :=
  if okStatus p && okDigits p && okSum p && okTerm p then .ok (signalOf p) else .error .invalid

end Sys2Proof.Machine
end

