-- ==== Sys2Proof/Machine/Pipeline.lean ====
section
/-! DEFINITION. Machine/Pipeline.lean: the stages in order; the first that raises a code ends the pipeline with it
(45_host_ops.md R224, 60_exceptions.md R254). -/

namespace Sys2Proof.Machine

/-- The stages after the synchronisation point: clock recovery, framing, validation (45_host_ops.md R224). -/
def decodeSuffix (spb : ℚ) (seq : List Bit) : Except Failure Signal :=
  match assemble (recoverBits spb (runsOf seq)) with
  | .error f => .error f
  | .ok pkt => validate pkt

/-- The stages after RESOLVE: the suffix from the synchronisation point on, that sample included (40_sampler_sync.md R117). -/
def decodeResolved (spb : ℚ) (rsym : List Bit) : Except Failure Signal :=
  match sync spb rsym with
  | .error f => .error f
  | .ok k => decodeSuffix spb (rsym.drop k)

/-- PIPE (45_host_ops.md R224). -/
def pipe (spb : ℚ) (policy : ZeroPolicy) (buf : List Sample) : Except Failure Signal :=
  match resolve policy (sampleBuffer buf) with
  | .error f => .error f
  | .ok rsym => decodeResolved spb rsym

end Sys2Proof.Machine
end

