-- ==== Sys2Proof/Machine/HostOps.lean ====
section
/-! DEFINITION. Machine/HostOps.lean: the lifecycle, pipeline and APPLY operations (45_host_ops.md, 44_timer_fsm.md R190). -/

namespace Sys2Proof.Machine

/-- The state CONSTRUCT produces (10_state.md R30). -/
def newBlock (spb : ℚ) (policy : ZeroPolicy) : Block where
  spb := spb
  zeroPolicy := policy
  capturing := false
  timer := { running := false, reset := true, left := false, right := false, digits := ⟨0, 0, 0, 0, 0⟩ }

/-- CONSTRUCT (45_host_ops.md R220): a new block that shares nothing with an old one (70_reset_and_hazards.md R282), or
CONFIG_ERROR, after which no block exists (60_exceptions.md R253; log 10). -/
def execConstruct (spb : Option (Int × Int)) (policy : ZeroPolicy) (s : State) : Answer :=
  match spb with
  | none => raise (s.withBlock none) .configError
  | some (p, q) =>
    if usableSpb p q then finish (s.withBlock (some (newBlock ((p : ℚ) / (q : ℚ)) policy))) .unit
    else raise (s.withBlock none) .configError

/-- START (45_host_ops.md R221). -/
def execStart (s : State) : Answer := update s fun b => b.withCapturing true

/-- STOP (45_host_ops.md R222). -/
def execStop (s : State) : Answer := update s fun b => b.withCapturing false

/-- An accepted Signal: applied, delivered with the snapshot after it, and OK_SIGNAL (45_host_ops.md R225, R227). -/
def accept (s : State) (b : Block) (sig : Signal) : Answer :=
  let t := applySignal sig b.timer
  let e : Emission := { signal := sig, snapshot := t }
  finish ((s.withBlock (some (b.withTimer t))).emit e) (.emission e)

/-- PROCESS_BUFFER (45_host_ops.md R225): IGNORED while not capturing (R226), else the pipeline's code or its Signal. -/
def execProcessBuffer (buf : List Sample) (s : State) : Answer :=
  onBuffer s buf fun b =>
    if b.capturing then
      match pipe b.spb b.zeroPolicy buf with
      | .error f => raise s f
      | .ok sig => accept s b sig
    else raise s .ignored

/-- DECODE (45_host_ops.md R223): the pipeline alone; it neither reads nor writes the Timer State or the capture mode. -/
def execDecode (buf : List Sample) (s : State) : Answer :=
  onBuffer s buf fun b => settle s ((pipe b.spb b.zeroPolicy buf).map .signal)

/-- APPLY (44_timer_fsm.md R190): only a well-formed Signal is accepted (30_encoding.md R82). -/
def execApply (status : Byte) (d : Digits) (s : State) : Answer :=
  onBlock s fun b =>
    if isStatusCode status then
      finish (s.withBlock (some (b.withTimer (applySignal { status := status, digits := d } b.timer)))) .unit
    else .refused .illegalSignal

end Sys2Proof.Machine
end

