-- ==== Sys2Proof/Machine/Probes.lean ====
section
/-! DEFINITION. Machine/Probes.lean: the stage probe operations (45_host_ops.md R228): each runs one stage on its operand
and writes nothing of the block. -/

namespace Sys2Proof.Machine

/-- SAMPLE (40_sampler_sync.md R100). -/
def execSample (buf : List Sample) (s : State) : Answer :=
  onBuffer s buf fun _ => finish s (.symbols (sampleBuffer buf))

/-- RESOLVE under the block's policy (40_sampler_sync.md R103, R104). -/
def execResolve (sym : List Symbol) (s : State) : Answer :=
  onBlock s fun b => settle s ((resolve b.zeroPolicy sym).map .bits)

/-- SYNC with the block's samples-per-bit (40_sampler_sync.md R110). -/
def execSync (rsym : List Bit) (s : State) : Answer :=
  onBlock s fun b => settle s ((sync b.spb rsym).map .index)

/-- RUNS (41_clock_recovery.md R130). -/
def execRuns (seq : List Bit) (s : State) : Answer :=
  onBlock s fun _ => finish s (.runs (runsOf seq))

/-- RECOVER with the block's samples-per-bit (41_clock_recovery.md R131); a run of length 0 is outside the operand form
(30_encoding.md R80, R82). -/
def execRecover (rs : List Run) (s : State) : Answer :=
  onBlock s fun b =>
    if legalRuns rs then finish s (.bits (recoverBits b.spb rs)) else .refused .illegalRunList

/-- ASSEMBLE (42_byte_framer.md R150). -/
def execAssemble (bits : List Bit) (s : State) : Answer :=
  onBlock s fun _ => settle s ((assemble bits).map .packet)

/-- VALIDATE (43_validator.md R170). -/
def execValidate (pkt : Packet) (s : State) : Answer :=
  onBlock s fun _ => settle s ((validate pkt).map .signal)

end Sys2Proof.Machine
end

