-- ==== Sys2Proof/Machine/Status.lean ====
section
/-! DEFINITION. Machine/Status.lean: the seven STATUS rows, each one arm of the timer state machine run on its Signal
(44_timer_fsm.md R191 to R197). As an operation of its own an arm ends as APPLY of that Signal does (log 7). -/

namespace Sys2Proof.Machine

/-- STATUS_SPACE: running (44_timer_fsm.md R191). -/
def execStatusSpace (d : Digits) (s : State) : Answer := runArm s flagsSpace d

/-- STATUS_S: stopped, not reset (44_timer_fsm.md R192). -/
def execStatusS (d : Digits) (s : State) : Answer := runArm s flagsS d

/-- STATUS_I: reset (44_timer_fsm.md R193). -/
def execStatusI (d : Digits) (s : State) : Answer := runArm s flagsI d

/-- STATUS_L: left hand (44_timer_fsm.md R194). -/
def execStatusL (d : Digits) (s : State) : Answer := runArm s flagsL d

/-- STATUS_R: right hand (44_timer_fsm.md R195). -/
def execStatusR (d : Digits) (s : State) : Answer := runArm s flagsR d

/-- STATUS_C: both hands, not running (44_timer_fsm.md R196). -/
def execStatusC (d : Digits) (s : State) : Answer := runArm s flagsC d

/-- STATUS_A: no flag effect beyond clearing the hands (44_timer_fsm.md R197). -/
def execStatusA (d : Digits) (s : State) : Answer := runArm s flagsA d

end Sys2Proof.Machine
end

