-- ==== Sys2Proof/Machine/Views.lean ====
section
/-! DEFINITION. Machine/Views.lean: the read-only views of the Timer State (44_timer_fsm.md R200 to R207). -/

namespace Sys2Proof.Machine

/-- The character of a digit (44_timer_fsm.md R200). -/
def digitChar (d : Fin 10) : Byte := BitVec.ofNat 8 (digitOffset + d.val)

/-- The 7 ASCII bytes d0 ':' d1 d2 '.' d3 d4 (44_timer_fsm.md R200, 90_conflicts.md C3). -/
def timeString (d : Digits) : List Byte :=
  [digitChar d.d0, 0x3A, digitChar d.d1, digitChar d.d2, 0x2E, digitChar d.d3, digitChar d.d4]

/-- The time in milliseconds, seconds above 59 simply multiplied (44_timer_fsm.md R201). -/
def timeMs (d : Digits) : Nat :=
  (d.d0.val * 60 + d.d1.val * 10 + d.d2.val) * 1000 + (d.d3.val * 10 + d.d4.val) * 10

/-- GET_TIME_STR (44_timer_fsm.md R200). -/
def execGetTimeStr (s : State) : Answer := view s fun b => .bytes (timeString b.timer.digits)

/-- GET_TIME_MS (44_timer_fsm.md R201). -/
def execGetTimeMs (s : State) : Answer := view s fun b => .nat (timeMs b.timer.digits)

/-- IS_RUNNING (44_timer_fsm.md R202). -/
def execIsRunning (s : State) : Answer := view s fun b => .bool b.timer.running

/-- IS_RESET (44_timer_fsm.md R203). -/
def execIsReset (s : State) : Answer := view s fun b => .bool b.timer.reset

/-- IS_LEFT_HAND (44_timer_fsm.md R204). -/
def execIsLeftHand (s : State) : Answer := view s fun b => .bool b.timer.left

/-- IS_RIGHT_HAND (44_timer_fsm.md R205). -/
def execIsRightHand (s : State) : Answer := view s fun b => .bool b.timer.right

/-- GET_DIGITS (44_timer_fsm.md R206). -/
def execGetDigits (s : State) : Answer := view s fun b => .digits b.timer.digits

/-- GET_STATE (44_timer_fsm.md R207). -/
def execGetState (s : State) : Answer := view s fun b => .timer b.timer

end Sys2Proof.Machine
end

