-- ==== Sys2Proof/Machine/Dispatch.lean ====
section
/-! DEFINITION. Machine/Dispatch.lean: one arm per instruction, each one direct call of its meaning. -/

namespace Sys2Proof.Machine

def exec (i : Instr) (s : State) : Host.Outcome State Fault Refusal :=
  match i with
  -- STATUS rows
  | .statusSpace digits => Sys2Proof.Machine.execStatusSpace digits s
  | .statusS digits => Sys2Proof.Machine.execStatusS digits s
  | .statusI digits => Sys2Proof.Machine.execStatusI digits s
  | .statusL digits => Sys2Proof.Machine.execStatusL digits s
  | .statusR digits => Sys2Proof.Machine.execStatusR digits s
  | .statusC digits => Sys2Proof.Machine.execStatusC digits s
  | .statusA digits => Sys2Proof.Machine.execStatusA digits s
  -- HOSTOP rows
  | .construct spb policy => Sys2Proof.Machine.execConstruct spb policy s
  | .start => Sys2Proof.Machine.execStart s
  | .stop => Sys2Proof.Machine.execStop s
  | .processBuffer buf => Sys2Proof.Machine.execProcessBuffer buf s
  | .decode buf => Sys2Proof.Machine.execDecode buf s
  | .apply status digits => Sys2Proof.Machine.execApply status digits s
  | .getTimeStr => Sys2Proof.Machine.execGetTimeStr s
  | .getTimeMs => Sys2Proof.Machine.execGetTimeMs s
  | .isRunning => Sys2Proof.Machine.execIsRunning s
  | .isReset => Sys2Proof.Machine.execIsReset s
  | .isLeftHand => Sys2Proof.Machine.execIsLeftHand s
  | .isRightHand => Sys2Proof.Machine.execIsRightHand s
  | .getDigits => Sys2Proof.Machine.execGetDigits s
  | .getState => Sys2Proof.Machine.execGetState s
  | .sample buf => Sys2Proof.Machine.execSample buf s
  | .resolve sym => Sys2Proof.Machine.execResolve sym s
  | .sync rsym => Sys2Proof.Machine.execSync rsym s
  | .runs seq => Sys2Proof.Machine.execRuns seq s
  | .recover rs => Sys2Proof.Machine.execRecover rs s
  | .assemble bits => Sys2Proof.Machine.execAssemble bits s
  | .validate pkt => Sys2Proof.Machine.execValidate pkt s

end Sys2Proof.Machine
end

