-- ==== Sys2Proof/Machine/Step.lean ====
section
/-! DEFINITION. Machine/Step.lean: one step runs the oldest operation the host has issued, whole and atomically
(20_memory.md R58, R61). -/

namespace Sys2Proof.Machine

/-- One step: with nothing issued nothing changes (60_exceptions.md R259; log 4); otherwise the oldest request leaves the
queue and its instruction runs, or the request is refused. -/
def step (s : State) : Host.Outcome State Fault Refusal :=
  match s.pending with
  | [] => .next s
  | r :: rest =>
    match fetchInstr r with
    | .error e => .refused e
    | .ok i => exec i (s.withPending rest)

/-- The state with the table's instruction `w` issued as the next operation (log 14); bytes that are no instruction are
issued as a host operation as they stand. -/
def State.withFetchWord (s : State) (nbits w : Nat) : State :=
  match readTableWord nbits w with
  | some (_, port, bytes) => s.withPending ({ port := port, issue := .serial, bytes := bytes } :: s.pending)
  | none => s.withPending ({ port := .hostOp, issue := .serial, bytes := tableBytes nbits w } :: s.pending)

end Sys2Proof.Machine
end

