-- ==== Sys2Proof/Machine/Script.lean ====
section
/-! DEFINITION. Machine/Script.lean: the literals and pseudo-operations of 30_encoding.md R84 and R85. They are host-side
test data, not operations of the block; a script line's abstract form is an `Instr`, its encoding `encode` (log 15). -/

namespace Sys2Proof.Machine

/-- The buffer literal `[ v*n, … ]`: n copies of v, in order (30_encoding.md R84). -/
def bufferLiteral (parts : List (Sample × Nat)) : List Sample := parts.flatMap fun p => List.replicate p.2 p.1

/-- The code of a status character (30_encoding.md R74), for the Signal literal of R84. -/
def charCode (c : Char) : Byte := BitVec.ofNat 8 c.toNat

/-- PKT (30_encoding.md R85). -/
def pktOf (status : Byte) (d : Digits) : Packet where
  status := status
  digit0 := BitVec.ofNat 8 (digitOffset + d.d0.val)
  digit1 := BitVec.ofNat 8 (digitOffset + d.d1.val)
  digit2 := BitVec.ofNat 8 (digitOffset + d.d2.val)
  digit3 := BitVec.ofNat 8 (digitOffset + d.d3.val)
  digit4 := BitVec.ofNat 8 (digitOffset + d.d4.val)
  checksum := BitVec.ofNat 8 (checksumOffset + (d.d0.val + d.d1.val + d.d2.val + d.d3.val + d.d4.val))
  term1 := lineFeed
  term2 := carriageReturn

/-- One serial character: start 0, eight data bits least significant first, stop 1 (30_encoding.md R72). -/
def charPeriods (b : Byte) : List Bit := false :: ((List.range 8).map fun k => b.getLsbD k) ++ [true]

/-- The 90 bit periods of a packet (30_encoding.md R73). -/
def framePeriods (p : Packet) : List Bit := (packetBytes p).flatMap charPeriods

/-- LINE: idle, the frame, idle (30_encoding.md R85). -/
def lineOf (p : Packet) (pre post : Nat) : List Bit :=
  List.replicate pre true ++ framePeriods p ++ List.replicate post true

/-- The sample value of a line level: −0.5 for 1, +0.5 for 0 (30_encoding.md R85). -/
def levelSample (b : Bit) : Sample := .finite (if b then -1 / 2 else 1 / 2)

/-- SYNTH: sample n has the level of bit period floor(n/spb + phase), for every n with that floor below the line's
length, that is, every n below (length − phase)·spb (30_encoding.md R85). -/
def synth (line : List Bit) (spb phase : ℚ) : List Sample :=
  (List.range ⌈((line.length : ℚ) - phase) * spb⌉.toNat).map fun n =>
    levelSample (line.getD ⌊(n : ℚ) / spb + phase⌋.toNat false)

/-- FEED, given the samples-per-bit of the block (30_encoding.md R85). -/
def feed (spb : ℚ) (status : Byte) (d : Digits) (pre post : Nat) : Instr :=
  .processBuffer (synth (lineOf (pktOf status d) pre post) spb 0)

end Sys2Proof.Machine
end

