-- ==== Sys2Proof/Safety.lean ====
section
/-! DEFINITION. Safety.lean: what a safe state is, in the terms the statements use. -/

namespace Sys2Proof.Machine

/-- A Signal the validator could have made (10_state.md R29): its status is one of the seven codes (the digits are
0..9 by their type). -/
abbrev Signal.Legal (sig : Signal) : Prop := sig.status ∈ statusCodes

/-- The run/reset axis never shows running together with reset (10_state.md R26). -/
abbrev Timer.OnAxis (t : Timer) : Prop := ¬(t.running = true ∧ t.reset = true)

/-- A block's samples-per-bit is positive (10_state.md R22) and its timer is on the axis. -/
abbrev Block.Inv (b : Block) : Prop := 0 < b.spb ∧ b.timer.OnAxis

/-- A delivery carries a legal Signal and a snapshot holding its digits, on the axis (45_host_ops.md R227). -/
abbrev Emission.Inv (e : Emission) : Prop :=
  e.signal.Legal ∧ e.snapshot.digits = e.signal.digits ∧ e.snapshot.OnAxis

/-- The invariant of the machine. -/
abbrev State.Inv (s : State) : Prop := (∀ b ∈ s.block, b.Inv) ∧ ∀ e ∈ s.delivered, e.Inv

/-- A refusal that says the REQUEST was wrong; the block itself is never the cause (30_encoding.md R82). -/
abbrev Refusal.IsInterface : Refusal → Prop
  | .noBlock => True
  | .undecodable _ => True
  | .illegalSignal => True
  | .illegalRunList => True
  | .bufferTooLong => True
  | .overlappingOperation => True
  | .reentrantOperation => True
  | _ => False

/-! ### Classes of instructions, for statements that name several -/

/-- CONSTRUCT, the one operation that needs no block (45_host_ops.md R229). -/
def isConstruct : Instr → Bool
  | .construct _ _ => true
  | _ => false

/-- The sample buffer among an instruction's operands. -/
def bufferOf : Instr → Option (List Sample)
  | .processBuffer buf => some buf
  | .decode buf => some buf
  | .sample buf => some buf
  | _ => none

/-- The operations the spec calls pure: the views, DECODE and the stage probes (20_memory.md R59). -/
def isReadOnly : Instr → Bool
  | .decode _ => true
  | .getTimeStr => true
  | .getTimeMs => true
  | .isRunning => true
  | .isReset => true
  | .isLeftHand => true
  | .isRightHand => true
  | .getDigits => true
  | .getState => true
  | .sample _ => true
  | .resolve _ => true
  | .sync _ => true
  | .runs _ => true
  | .recover _ => true
  | .assemble _ => true
  | .validate _ => true
  | _ => false

/-- DECODE and the stage probes: they read only the configuration and their operand (20_memory.md R59). -/
def isStageOp : Instr → Bool
  | .decode _ => true
  | .sample _ => true
  | .resolve _ => true
  | .sync _ => true
  | .runs _ => true
  | .recover _ => true
  | .assemble _ => true
  | .validate _ => true
  | _ => false

/-- The operations that may write the Timer State: CONSTRUCT, PROCESS_BUFFER, APPLY and the arms of APPLY. -/
def mayWriteTimer : Instr → Bool
  | .statusSpace _ => true
  | .statusS _ => true
  | .statusI _ => true
  | .statusL _ => true
  | .statusR _ => true
  | .statusC _ => true
  | .statusA _ => true
  | .construct _ _ => true
  | .processBuffer _ => true
  | .apply _ _ => true
  | _ => false

/-- CONSTRUCT, START and STOP, the operations that may write the capture mode (10_state.md R23). -/
def mayWriteCapturing : Instr → Bool
  | .construct _ _ => true
  | .start => true
  | .stop => true
  | _ => false

/-- Whether an answer is a next state. -/
def isNext : Host.Outcome State Fault Refusal → Bool
  | .next _ => true
  | _ => false

/-- The result a step hands its caller, where it answers a next state. -/
def resultOf : Host.Outcome State Fault Refusal → Option Result
  | .next t => some t.result
  | _ => none

/-- The block after a step, where it answers a next state. -/
def blockAfter : Host.Outcome State Fault Refusal → Option Block
  | .next t => t.block
  | _ => none

/-! ### The closed form of synchronisation -/

/-- `k` is a 0 right after an unbroken run of `c` ones with c > 9·SPB that begins at index 0 or after a 0
(40_sampler_sync.md R115). -/
def SyncPoint (spb : ℚ) (rsym : List Bit) (k : Nat) : Prop :=
  rsym[k]? = some false ∧
    ∃ c : Nat, 9 * spb < (c : ℚ) ∧ c ≤ k ∧ (∀ j, k - c ≤ j → j < k → rsym[j]? = some true) ∧
      (k = c ∨ rsym[k - c - 1]? = some false)

end Sys2Proof.Machine
end

