-- ==== Sys2Proof/WellFormed.lean ====
section
/-! DEFINITION. WellFormed.lean: which instructions the operand forms of 30_encoding.md R80 admit. What the operand types
already rule out (a digit above 9, a symbol 2 where only 0 and 1 stand, a packet of other than 9 bytes) needs no check. -/

namespace Sys2Proof

/-- A Signal operand carries one of the seven status codes (30_encoding.md R80, R82). -/
def wfStatus (status : Byte) : Bool := Machine.isStatusCode status

/-- A run list's runs all have length ≥ 1 (30_encoding.md R80). -/
def wfRuns (runs : List Run) : Bool := runs.all fun r => decide (1 ≤ r.len)

/-- An absent spb leaves no place for a policy operand after it, so the policy is the default (30_encoding.md R79). -/
def wfConstruct (spb : Option (Int × Int)) (policy : ZeroPolicy) : Bool :=
  spb.isSome || decide (policy = .abort)

/-- The operand-form checks of every instruction. -/
def Instr.wellFormed : Instr → Bool
  | .statusSpace _ => true
  | .statusS _ => true
  | .statusI _ => true
  | .statusL _ => true
  | .statusR _ => true
  | .statusC _ => true
  | .statusA _ => true
  | .construct spb policy => wfConstruct spb policy
  | .start => true
  | .stop => true
  | .processBuffer _ => true
  | .decode _ => true
  | .apply status _ => wfStatus status
  | .getTimeStr => true
  | .getTimeMs => true
  | .isRunning => true
  | .isReset => true
  | .isLeftHand => true
  | .isRightHand => true
  | .getDigits => true
  | .getState => true
  | .sample _ => true
  | .resolve _ => true
  | .sync _ => true
  | .runs _ => true
  | .recover rs => wfRuns rs
  | .assemble _ => true
  | .validate _ => true

end Sys2Proof
end

