-- ==== Sys2Proof/Certificates/Slice0/Obligations.lean ====
section
/-! DEFINITION. Obligations.lean: the statements about the model, from the spec's numbered rules. The witnesses of their
hypotheses stand in Sys2Proof/Tests/Slice0.lean. -/

open Sys2Proof Sys2Proof.Machine

/-- Status ' ' gives running = true, reset = false, left = false, right = false and the Signal's digits, from every
block. The same equation holds of APPLY with that status byte and of the row itself, every other field of the state
unchanged; the row's encoding begins with its byte. (That the row is also an operation of its own, which ends with
OK, is the model's choice, log 7; the rule gives the transition, reached through APPLY.) Rests on R191,
notes/assumptions/7.md. -/
def Obligations.StatusSpaceSetsRunning : Prop :=
  (∀ (s : State) (b : Block) (d : Digits), s.block = some b →
    exec (.apply 0x20 d) s =
        .next { s with block := some { b with timer := { running := true, reset := false, left := false, right := false, digits := d } }, result := .ok .unit } ∧
      exec (.statusSpace d) s =
        .next { s with block := some { b with timer := { running := true, reset := false, left := false, right := false, digits := d } }, result := .ok .unit } ∧
      (encode (.statusSpace d)).head? = some 0x20)

/-- Status 'S' gives running = false, reset = false, left = false, right = false and the Signal's digits, from every
block. The same equation holds of APPLY with that status byte and of the row itself, every other field of the state
unchanged; the row's encoding begins with its byte. (That the row is also an operation of its own, which ends with
OK, is the model's choice, log 7; the rule gives the transition, reached through APPLY.) Rests on R192,
notes/assumptions/7.md. -/
def Obligations.StatusSStopsWithoutReset : Prop :=
  (∀ (s : State) (b : Block) (d : Digits), s.block = some b →
    exec (.apply 0x53 d) s =
        .next { s with block := some { b with timer := { running := false, reset := false, left := false, right := false, digits := d } }, result := .ok .unit } ∧
      exec (.statusS d) s =
        .next { s with block := some { b with timer := { running := false, reset := false, left := false, right := false, digits := d } }, result := .ok .unit } ∧
      (encode (.statusS d)).head? = some 0x53)

/-- Status 'I' gives running = false, reset = true, left = false, right = false and the Signal's digits (not forced to
zero), from every block. The same equation holds of APPLY with that status byte and of the row itself, every other
field of the state unchanged; the row's encoding begins with its byte. (That the row is also an operation of its
own, which ends with OK, is the model's choice, log 7; the rule gives the transition, reached through APPLY.) Rests
on R193, notes/assumptions/7.md. -/
def Obligations.StatusISetsReset : Prop :=
  (∀ (s : State) (b : Block) (d : Digits), s.block = some b →
    exec (.apply 0x49 d) s =
        .next { s with block := some { b with timer := { running := false, reset := true, left := false, right := false, digits := d } }, result := .ok .unit } ∧
      exec (.statusI d) s =
        .next { s with block := some { b with timer := { running := false, reset := true, left := false, right := false, digits := d } }, result := .ok .unit } ∧
      (encode (.statusI d)).head? = some 0x49)

/-- Status 'L' gives left = true, right = false and the Signal's digits; running and reset are as before. The same
equation holds of APPLY with that status byte and of the row itself, every other field of the state unchanged; the
row's encoding begins with its byte. (That the row is also an operation of its own, which ends with OK, is the
model's choice, log 7; the rule gives the transition, reached through APPLY.) Rests on R194, notes/assumptions/7.md. -/
def Obligations.StatusLSetsLeftHandOnly : Prop :=
  (∀ (s : State) (b : Block) (d : Digits), s.block = some b →
    exec (.apply 0x4C d) s =
        .next { s with block := some { b with timer := { b.timer with left := true, right := false, digits := d } }, result := .ok .unit } ∧
      exec (.statusL d) s =
        .next { s with block := some { b with timer := { b.timer with left := true, right := false, digits := d } }, result := .ok .unit } ∧
      (encode (.statusL d)).head? = some 0x4C)

/-- Status 'R' gives right = true, left = false and the Signal's digits; running and reset are as before. The same
equation holds of APPLY with that status byte and of the row itself, every other field of the state unchanged; the
row's encoding begins with its byte. (That the row is also an operation of its own, which ends with OK, is the
model's choice, log 7; the rule gives the transition, reached through APPLY.) Rests on R195, notes/assumptions/7.md. -/
def Obligations.StatusRSetsRightHandOnly : Prop :=
  (∀ (s : State) (b : Block) (d : Digits), s.block = some b →
    exec (.apply 0x52 d) s =
        .next { s with block := some { b with timer := { b.timer with left := false, right := true, digits := d } }, result := .ok .unit } ∧
      exec (.statusR d) s =
        .next { s with block := some { b with timer := { b.timer with left := false, right := true, digits := d } }, result := .ok .unit } ∧
      (encode (.statusR d)).head? = some 0x52)

/-- Status 'C' gives running = false, left = true, right = true and the Signal's digits; reset is as before. The same
equation holds of APPLY with that status byte and of the row itself, every other field of the state unchanged; the
row's encoding begins with its byte. (That the row is also an operation of its own, which ends with OK, is the
model's choice, log 7; the rule gives the transition, reached through APPLY.) Rests on R196, notes/assumptions/7.md. -/
def Obligations.StatusCSetsBothHandsAndStops : Prop :=
  (∀ (s : State) (b : Block) (d : Digits), s.block = some b →
    exec (.apply 0x43 d) s =
        .next { s with block := some { b with timer := { b.timer with running := false, left := true, right := true, digits := d } }, result := .ok .unit } ∧
      exec (.statusC d) s =
        .next { s with block := some { b with timer := { b.timer with running := false, left := true, right := true, digits := d } }, result := .ok .unit } ∧
      (encode (.statusC d)).head? = some 0x43)

/-- Status 'A' gives left = false, right = false and the Signal's digits; running and reset are as before. The same
equation holds of APPLY with that status byte and of the row itself, every other field of the state unchanged; the
row's encoding begins with its byte. (That the row is also an operation of its own, which ends with OK, is the
model's choice, log 7; the rule gives the transition, reached through APPLY.) The transition on any byte outside the
seven codes does the same. Rests on R197, notes/assumptions/7.md. -/
def Obligations.StatusAClearsHandsOnly : Prop :=
  (∀ (s : State) (b : Block) (d : Digits), s.block = some b →
    exec (.apply 0x41 d) s =
        .next { s with block := some { b with timer := { b.timer with left := false, right := false, digits := d } }, result := .ok .unit } ∧
      exec (.statusA d) s =
        .next { s with block := some { b with timer := { b.timer with left := false, right := false, digits := d } }, result := .ok .unit } ∧
      (encode (.statusA d)).head? = some 0x41) ∧
  ∀ (c : Byte) (d : Digits) (t : Timer), c ∉ statusCodes →
    applySignal ⟨c, d⟩ t = { t with left := false, right := false, digits := d }

/-- For every block and every well-formed Signal (a status of the seven codes, five digits) APPLY ends with OK and the
Timer State of the rule: running and reset from the status or kept, both hands cleared and then set by L, R, C, the
digits always the Signal's; every other field of the state is unchanged. The seven legal bytes are exactly those
listed. Rests on R190, R198, R82. -/
def Obligations.ApplyTransitionByStatus : Prop :=
  (∀ (s : State) (b : Block) (c : Byte) (d : Digits), s.block = some b → c ∈ statusCodes →
    exec (.apply c d) s = .next { s with
      block := some { b with timer := {
        running := if c = 0x20 then true else if c = 0x53 ∨ c = 0x49 ∨ c = 0x43 then false else b.timer.running
        reset := if c = 0x49 then true else if c = 0x20 ∨ c = 0x53 then false else b.timer.reset
        left := decide (c = 0x4C ∨ c = 0x43)
        right := decide (c = 0x52 ∨ c = 0x43)
        digits := d } }
      result := .ok .unit }) ∧
  ∀ c : Byte, c ∈ statusCodes ↔
    c = 0x20 ∨ c = 0x53 ∨ c = 0x49 ∨ c = 0x4C ∨ c = 0x52 ∨ c = 0x43 ∨ c = 0x41

/-- APPLY with a status byte outside the seven codes is refused by name and does not happen; a request for APPLY with a
digit byte above 9 (each of the five, after legal ones) does not decode. Rests on R82. -/
def Obligations.ApplyRefusesIllegalSignals : Prop :=
  (∀ (s : State) (b : Block) (c : Byte) (d : Digits), s.block = some b → c ∉ statusCodes →
    exec (.apply c d) s = .refused .illegalSignal) ∧
  ∀ (c x y z w v : Byte) (i : Instr), 10 ≤ x.toNat ∨ 10 ≤ y.toNat ∨ 10 ≤ z.toNat ∨ 10 ≤ w.toNat ∨ 10 ≤ v.toNat →
    decode .hostOp [0x06, c, x, y, z, w, v] ≠ .ok i

/-- (a) Applying a Signal again leaves the block as it is. (b) L then R keeps running and reset, ends with left = false,
right = true and the digits of R. (c) The Timer State after APPLY is the same from two blocks that agree on running
and reset. (d) No legal Signal is refused by a block. Rests on R199. -/
def Obligations.ApplyLaws : Prop :=
  (∀ (s t : State) (c : Byte) (d : Digits), exec (.apply c d) s = .next t →
    ∃ u, exec (.apply c d) t = .next u ∧ u.block = t.block) ∧
  (∀ (s t u : State) (b : Block) (d1 d2 : Digits), s.block = some b →
    exec (.apply 0x4C d1) s = .next t → exec (.apply 0x52 d2) t = .next u →
    u.block = some { b with timer := { b.timer with left := false, right := true, digits := d2 } }) ∧
  (∀ (s s' t t' : State) (b b' : Block) (c : Byte) (d : Digits), s.block = some b → s'.block = some b' →
    b.timer.running = b'.timer.running → b.timer.reset = b'.timer.reset →
    exec (.apply c d) s = .next t → exec (.apply c d) s' = .next t' →
    t.block.map Block.timer = t'.block.map Block.timer) ∧
  ∀ (s : State) (b : Block) (c : Byte) (d : Digits), s.block = some b → c ∈ statusCodes →
    ∃ t, exec (.apply c d) s = .next t

/-- From every state, with or without a block, CONSTRUCT of any pair with q ≠ 0 and p/q > 0 ends with OK and a block
whose fields are all as the rule lists them: spb = p/q, the policy given, not capturing, running false, reset true,
both hands false, digits zero. Nothing else changes. (The model's readings: that a pair with both integers negative
is among those accepted, log 9, read from C8; that a block already there is replaced, no trace of it kept, log 10;
that the deliveries made so far are kept, log 5.) Rests on R30, R220, R253, R282, 90_conflicts.md C8,
notes/assumptions/5.md, notes/assumptions/9.md, notes/assumptions/10.md. -/
def Obligations.ConstructMakesResetState : Prop :=
  ∀ (s : State) (p q : Int) (z : ZeroPolicy), q ≠ 0 → 0 < (p : ℚ) / (q : ℚ) →
    exec (.construct (some (p, q)) z) s = .next { s with
      block := some {
        spb := (p : ℚ) / (q : ℚ)
        zeroPolicy := z
        capturing := false
        timer := { running := false, reset := true, left := false, right := false, digits := ⟨0, 0, 0, 0, 0⟩ } }
      result := .ok .unit }

/-- CONSTRUCT with spb absent, with q = 0 or with p/q ≤ 0 ends with CONFIG_ERROR and no block, also where one existed
(that the old block is gone is the model's reading, log 10); every positive rational, written as any pair of
integers, is accepted (that this takes in a pair with both integers negative is read from C8, log 9); without a
block every operation but CONSTRUCT is refused. Rests on R253, R220, 90_conflicts.md C8, notes/assumptions/9.md,
notes/assumptions/10.md. -/
def Obligations.ConstructConfigError : Prop :=
  (∀ (s : State) (z : ZeroPolicy),
    exec (.construct none z) s = .next { s with block := none, result := .fail .configError }) ∧
  (∀ (s : State) (p q : Int) (z : ZeroPolicy), q = 0 ∨ (p : ℚ) / (q : ℚ) ≤ 0 →
    exec (.construct (some (p, q)) z) s = .next { s with block := none, result := .fail .configError }) ∧
  (∀ (s : State) (r : ℚ) (p q : Int) (z : ZeroPolicy), 0 < r → q ≠ 0 → (p : ℚ) = r * (q : ℚ) →
    ∃ t b, exec (.construct (some (p, q)) z) s = .next t ∧ t.result = .ok .unit ∧
      t.block = some b ∧ b.spb = r ∧ b.zeroPolicy = z) ∧
  ∀ (s : State) (i : Instr), s.block = none → isConstruct i = false → exec i s = .refused .noBlock

/-- A pair whose integers are both negative has a positive quotient, and any positive finite rational is accepted:
CONSTRUCT ends with OK and the new block with spb = p/q, which is positive, the same block as for the pair (-p, -q).
(That R253 decides this pair against the words of R80 and R82 is read from C8, log 9; that a block already there is
replaced is log 10.) Rests on 60_exceptions.md R253, 45_host_ops.md R220, 92_eei_decisions.md D5, 90_conflicts.md
C8, notes/assumptions/9.md, notes/assumptions/10.md. -/
def Obligations.ConstructBothNegativeIsAccepted : Prop :=
  ∀ (s : State) (p q : Int) (z : ZeroPolicy), p < 0 → q < 0 →
    exec (.construct (some (p, q)) z) s =
        .next { s with block := some (newBlock ((p : ℚ) / (q : ℚ)) z), result := .ok .unit } ∧
      0 < (p : ℚ) / (q : ℚ) ∧
      exec (.construct (some (p, q)) z) s = exec (.construct (some (-p, -q)) z) s

/-- START ends with OK and capturing = true; configuration, Timer State and everything else are unchanged; while already
capturing it changes nothing of the block. Formalises R221. -/
def Obligations.StartOnlySetsCapturing : Prop :=
  (∀ (s : State) (b : Block), s.block = some b →
    exec .start s = .next { s with block := some { b with capturing := true }, result := .ok .unit }) ∧
  (∀ (s : State) (b : Block), s.block = some b → b.capturing = true →
    exec .start s = .next { s with result := .ok .unit }) ∧
  encode .start = [0x02]

/-- STOP ends with OK and capturing = false and changes nothing else; while already stopped it changes nothing of the
block; a PROCESS_BUFFER after it, of any buffer within MAX_BUFFER_LEN, ends with IGNORED. Formalises R222. -/
def Obligations.StopOnlyClearsCapturing : Prop :=
  (∀ (s : State) (b : Block), s.block = some b →
    exec .stop s = .next { s with block := some { b with capturing := false }, result := .ok .unit }) ∧
  (∀ (s : State) (b : Block), s.block = some b → b.capturing = false →
    exec .stop s = .next { s with result := .ok .unit }) ∧
  (∀ (s t : State) (buf : List Sample), exec .stop s = .next t → bufferFits t buf = true →
    exec (.processBuffer buf) t = .next { t with result := .fail .ignored }) ∧
  encode .stop = [0x03]

/-- For every block and every buffer within MAX_BUFFER_LEN, PROCESS_BUFFER ends: with IGNORED and no other change while
not capturing; else with the code the pipeline raises and no other change; else with the pipeline's Signal applied
to the Timer State, one delivery of that Signal with the snapshot after it, and OK_SIGNAL carrying the same. Rests
on R225, R226, R227. -/
def Obligations.ProcessBufferOutcomes : Prop :=
  ∀ (s : State) (b : Block) (buf : List Sample), s.block = some b → bufferFits s buf = true →
    (b.capturing = false → exec (.processBuffer buf) s = .next { s with result := .fail .ignored }) ∧
    (∀ f, b.capturing = true → pipe b.spb b.zeroPolicy buf = .error f →
      exec (.processBuffer buf) s = .next { s with result := .fail f }) ∧
    (∀ sig, b.capturing = true → pipe b.spb b.zeroPolicy buf = .ok sig →
      exec (.processBuffer buf) s = .next { s with
        block := some { b with timer := applySignal sig b.timer }
        delivered := s.delivered ++ [⟨sig, applySignal sig b.timer⟩]
        result := .ok (.emission ⟨sig, applySignal sig b.timer⟩) })

/-- If PROCESS_BUFFER answers a next state whose result is a failure code, the whole state but the result is what it
was: the block field for field, and the observer's deliveries. The block's Timer State changes only if the pipeline,
VALIDATE its last stage, gave a Signal. Formalises R252. -/
def Obligations.FailedBufferWritesNothing : Prop :=
  (∀ (s t : State) (buf : List Sample) (f : Failure), exec (.processBuffer buf) s = .next t → t.result = .fail f →
    t = { s with result := .fail f }) ∧
  ∀ (s t : State) (b : Block) (buf : List Sample), s.block = some b → exec (.processBuffer buf) s = .next t →
    t.block ≠ s.block →
    ∃ rsym k pkt sig, resolve b.zeroPolicy (sampleBuffer buf) = .ok rsym ∧ sync b.spb rsym = .ok k ∧
      assemble (recoverBits b.spb (runsOf (rsym.drop k))) = .ok pkt ∧ validate pkt = .ok sig ∧
      t.block = some { b with timer := applySignal sig b.timer }

/-- For every block and every buffer within MAX_BUFFER_LEN, DECODE ends with the pipeline's Signal or code, in either
capture mode, and changes nothing but the result; the empty buffer gives SYNC_MISS under both policies. Formalises
R223. -/
def Obligations.DecodeReturnsPipelineResult : Prop :=
  (∀ (s : State) (b : Block) (buf : List Sample), s.block = some b → bufferFits s buf = true →
    (∀ sig, pipe b.spb b.zeroPolicy buf = .ok sig →
      exec (.decode buf) s = .next { s with result := .ok (.signal sig) }) ∧
    (∀ f, pipe b.spb b.zeroPolicy buf = .error f →
      exec (.decode buf) s = .next { s with result := .fail f })) ∧
  (∀ (s : State) (b : Block), s.block = some b → exec (.decode []) s = .next { s with result := .fail .syncMiss })

/-- Where MAX_BUFFER_LEN is n and a buffer is longer than n, PROCESS_BUFFER, DECODE and SAMPLE are refused by name, in
either capture mode (that the refusal comes before IGNORED is the model's choice, log 12). Rests on R9,
93_implementation_defined.md M3, notes/assumptions/12.md. -/
def Obligations.LongBuffersAreRefused : Prop :=
  ∀ (s : State) (b : Block) (n : Nat) (buf : List Sample), s.block = some b → s.maxBufferLen = some n →
    n < buf.length →
    exec (.processBuffer buf) s = .refused .bufferTooLong ∧ exec (.decode buf) s = .refused .bufferTooLong ∧
      exec (.sample buf) s = .refused .bufferTooLong

/-- GET_TIME_STR ends with the seven ASCII bytes of the digits, with no range check on the seconds, and changes nothing
but the result. Formalises R200. -/
def Obligations.TimeStringView : Prop :=
  (∀ (s : State) (b : Block), s.block = some b →
    exec .getTimeStr s = .next { s with result := .ok (.bytes [
      BitVec.ofNat 8 (0x30 + b.timer.digits.d0.val), 0x3A,
      BitVec.ofNat 8 (0x30 + b.timer.digits.d1.val), BitVec.ofNat 8 (0x30 + b.timer.digits.d2.val), 0x2E,
      BitVec.ofNat 8 (0x30 + b.timer.digits.d3.val), BitVec.ofNat 8 (0x30 + b.timer.digits.d4.val)]) }) ∧
  encode .getTimeStr = [0x10]

/-- GET_TIME_MS ends with (d0*60 + d1*10 + d2)*1000 + (d3*10 + d4)*10 and changes nothing but the result; that number is
at most 639990 and a multiple of 10. Formalises R201. -/
def Obligations.TimeMsView : Prop :=
  (∀ (s : State) (b : Block), s.block = some b →
    ∃ n : Nat, n = (b.timer.digits.d0.val * 60 + b.timer.digits.d1.val * 10 + b.timer.digits.d2.val) * 1000
        + (b.timer.digits.d3.val * 10 + b.timer.digits.d4.val) * 10 ∧
      exec .getTimeMs s = .next { s with result := .ok (.nat n) } ∧ n ≤ 639990 ∧ 10 ∣ n) ∧
  encode .getTimeMs = [0x11]

/-- Each of the four flag views ends with its own flag and changes nothing but the result; the selectors are 0x12 to
0x15. Formalises R202, R203, R204, R205. -/
def Obligations.FlagViews : Prop :=
  ∀ (s : State) (b : Block), s.block = some b →
    exec .isRunning s = .next { s with result := .ok (.bool b.timer.running) } ∧
    exec .isReset s = .next { s with result := .ok (.bool b.timer.reset) } ∧
    exec .isLeftHand s = .next { s with result := .ok (.bool b.timer.left) } ∧
    exec .isRightHand s = .next { s with result := .ok (.bool b.timer.right) } ∧
    encode .isRunning = [0x12] ∧ encode .isReset = [0x13] ∧ encode .isLeftHand = [0x14] ∧ encode .isRightHand = [0x15]

/-- GET_DIGITS ends with a copy of the five digits and GET_STATE with a copy of the whole Timer State; neither changes
anything but the result; the selectors are 0x16 and 0x17. Rests on R206, R207. -/
def Obligations.DigitsAndStateViews : Prop :=
  ∀ (s : State) (b : Block), s.block = some b →
    exec .getDigits s = .next { s with result := .ok (.digits b.timer.digits) } ∧
    exec .getState s = .next { s with result := .ok (.timer b.timer) } ∧
    encode .getDigits = [0x16] ∧ encode .getState = [0x17]

/-- SAMPLE ends with a symbol sequence of the buffer's length whose element i is 1, 0 or X as sample i is negative
(minus infinity too), positive (infinity too), or zero (+0, -0, NaN); nothing but the result changes. Formalises
R100. -/
def Obligations.SampleClassifiesBySign : Prop :=
  (∀ (s : State) (b : Block) (buf : List Sample), s.block = some b → bufferFits s buf = true →
    ∃ sym : List Symbol, exec (.sample buf) s = .next { s with result := .ok (.symbols sym) } ∧
      sym.length = buf.length ∧
      (∀ (i : Nat) (x : ℚ), buf[i]? = some (.finite x) →
        (x < 0 → sym[i]? = some (.bit true)) ∧ (0 < x → sym[i]? = some (.bit false)) ∧
          (x = 0 → sym[i]? = some .indet)) ∧
      (∀ i : Nat, buf[i]? = some .negZero → sym[i]? = some .indet) ∧
      (∀ i : Nat, buf[i]? = some .nan → sym[i]? = some .indet) ∧
      (∀ i : Nat, buf[i]? = some .posInf → sym[i]? = some (.bit false)) ∧
      (∀ i : Nat, buf[i]? = some .negInf → sym[i]? = some (.bit true)))

/-- The classification is as the rule lists it, and two buffers with the same classes element by element give the same
answer of PROCESS_BUFFER and of DECODE, and the same symbols of SAMPLE, in every state. Formalises R27. -/
def Obligations.OnlySignsMatter : Prop :=
  ((∀ x : ℚ, x < 0 → classify (.finite x) = .neg) ∧ (∀ x : ℚ, 0 < x → classify (.finite x) = .pos) ∧
    classify (.finite 0) = .zero ∧ classify .negZero = .zero ∧ classify .nan = .zero ∧
    classify .negInf = .neg ∧ classify .posInf = .pos) ∧
  ∀ (s : State) (buf buf' : List Sample), buf.map classify = buf'.map classify →
    exec (.processBuffer buf) s = exec (.processBuffer buf') s ∧ exec (.decode buf) s = exec (.decode buf') s ∧
      exec (.sample buf) s = exec (.sample buf') s

/-- Under ABORT, RESOLVE ends with INDETERMINATE(i) for the least i with sym[i] = X, and with the same symbols where
there is no X; nothing but the result changes. Formalises R103. -/
def Obligations.ResolveAbortStopsAtFirstX : Prop :=
  (∀ (s : State) (b : Block) (sym : List Symbol) (i : Nat), s.block = some b → b.zeroPolicy = .abort →
    sym[i]? = some .indet → (∀ j, j < i → sym[j]? ≠ some .indet) →
    exec (.resolve sym) s = .next { s with result := .fail (.indeterminate i) }) ∧
  (∀ (s : State) (b : Block) (bs : List Bit), s.block = some b → b.zeroPolicy = .abort →
    exec (.resolve (bs.map .bit)) s = .next { s with result := .ok (.bits bs) })

/-- Under HOLD, RESOLVE ends with a sequence of the same length whose element i is the symbol itself where it is 0 or 1,
and where it is X the resolved element before it, or 1 at index 0; nothing but the result changes. Formalises R104. -/
def Obligations.ResolveHoldContinues : Prop :=
  ∀ (s : State) (b : Block) (sym : List Symbol), s.block = some b → b.zeroPolicy = .hold →
    ∃ out : List Bit, exec (.resolve sym) s = .next { s with result := .ok (.bits out) } ∧
      out.length = sym.length ∧
      (∀ (i : Nat) (v : Bit), sym[i]? = some (.bit v) → out[i]? = some v) ∧
      (∀ i : Nat, sym[i + 1]? = some .indet → out[i + 1]? = out[i]?) ∧
      (sym[0]? = some .indet → out[0]? = some true)

/-- For a positive samples-per-bit, SYNC ends with the least synchronisation point in the closed form of the rule, and
with SYNC_MISS where there is none; nothing but the result changes. (A block's samples-per-bit is positive:
StepKeepsInvariant.) Rests on R115. -/
def Obligations.SyncFindsLeastSyncPoint : Prop :=
  ∀ (s : State) (b : Block) (rsym : List Bit), s.block = some b → 0 < b.spb →
    (∀ k, SyncPoint b.spb rsym k → (∀ j, j < k → ¬SyncPoint b.spb rsym j) →
      exec (.sync rsym) s = .next { s with result := .ok (.index k) }) ∧
    ((∀ k, ¬SyncPoint b.spb rsym k) → exec (.sync rsym) s = .next { s with result := .fail .syncMiss })

/-- With SPB = p/q in lowest terms, a count arms exactly if count·q > 9·p, exactly if it is at least floor(9·SPB) + 1;
so 37 for SPB 4, 361 for 40, 331 for 147/4, one less does not arm, and exactly 9·SPB does not. Formalises R111. -/
def Obligations.ArmingIsStrictAndExact : Prop :=
  (∀ (spb : ℚ) (n : Nat), arms spb n = true ↔ 9 * spb.num < (n : Int) * (spb.den : Int)) ∧
  (∀ (spb : ℚ) (n : Nat), arms spb n = true ↔ ⌊9 * spb⌋ + 1 ≤ (n : Int)) ∧
  (∀ (spb : ℚ) (n : Nat), (n : ℚ) = 9 * spb → arms spb n = false) ∧
  (arms 4 37 = true ∧ arms 4 36 = false) ∧ (arms 40 361 = true ∧ arms 40 360 = false) ∧
  (arms (147 / 4) 331 = true ∧ arms (147 / 4) 330 = false)

/-- Where a run of n ones does not arm, SYNC over that run, a 0 and the rest finds the synchronisation point of the rest
alone, n + 1 further on; where the run arms, the 0 after it is the synchronisation point. Rests on R112, R114. -/
def Obligations.GlitchRestartsArming : Prop :=
  ∀ (spb : ℚ) (n : Nat) (rest : List Bit),
    (arms spb n = false → syncScan spb 0 0 false (List.replicate n true ++ false :: rest) =
      (syncScan spb 0 0 false rest).map (· + (n + 1))) ∧
    (arms spb n = true → 0 < n → syncScan spb 0 0 false (List.replicate n true ++ false :: rest) = some n)

/-- RUNS ends with a run list in which every length is at least 1, adjacent runs have different symbols, the lengths sum
to the length of the sequence, and the runs expanded in order are the sequence; nothing but the result changes. No
other run list with lengths of at least 1 and differing neighbours expands to the sequence. Rests on R130. -/
def Obligations.RunsAreLossless : Prop :=
  (∀ (s : State) (b : Block) (seq : List Bit), s.block = some b →
    ∃ rs : List Run, exec (.runs seq) s = .next { s with result := .ok (.runs rs) } ∧
      (∀ r ∈ rs, 1 ≤ r.len) ∧ rs.IsChain (fun r r' => r.sym ≠ r'.sym) ∧
      (rs.map Run.len).sum = seq.length ∧ rs.flatMap (fun r => List.replicate r.len r.sym) = seq ∧
      ∀ rs' : List Run, (∀ r ∈ rs', 1 ≤ r.len) → rs'.IsChain (fun r r' => r.sym ≠ r'.sym) →
        rs'.flatMap (fun r => List.replicate r.len r.sym) = seq → rs' = rs)

/-- RECOVER of a legal run list ends with the concatenation, in order, of each run's symbol repeated floor(len/SPB +
1/2) times, and changes nothing but the result; a run list holding a run of length 0 is refused by name. Rests on
R131, R80, R82. -/
def Obligations.RecoverExpandsRuns : Prop :=
  ∀ (s : State) (b : Block) (rs : List Run), s.block = some b →
    ((∀ r ∈ rs, 1 ≤ r.len) → exec (.recover rs) s = .next { s with
      result := .ok (.bits (rs.flatMap fun r => List.replicate ⌊(r.len : ℚ) / b.spb + 1 / 2⌋.toNat r.sym)) }) ∧
    ((∃ r ∈ rs, r.len = 0) → exec (.recover rs) s = .refused .illegalRunList)

/-- With SPB = p/q a run of n samples gives floor((2nq + p)/(2p)) bit periods; m ≥ 1 exactly when (m - 1/2)·SPB ≤ n < (m
+ 1/2)·SPB; 0 exactly when n < SPB/2; a tie n/SPB = j + 1/2 gives j + 1 and needs 2n/SPB to be an odd integer; at
SPB = 40 the samples 20, 60, 100 are ties, at 147/4 there is none. Rests on R132. -/
def Obligations.RoundingInIntegers : Prop :=
  (∀ p q n : Nat, 0 < p → 0 < q → bitPeriods ((p : ℚ) / (q : ℚ)) n = (2 * n * q + p) / (2 * p)) ∧
  (∀ (spb : ℚ) (n m : Nat), 0 < spb → 1 ≤ m →
    (bitPeriods spb n = m ↔ ((m : ℚ) - 1 / 2) * spb ≤ (n : ℚ) ∧ (n : ℚ) < ((m : ℚ) + 1 / 2) * spb)) ∧
  (∀ (spb : ℚ) (n : Nat), 0 < spb → (bitPeriods spb n = 0 ↔ (n : ℚ) < spb / 2)) ∧
  (∀ (spb : ℚ) (n j : Nat), 0 < spb → (n : ℚ) / spb = (j : ℚ) + 1 / 2 →
    bitPeriods spb n = j + 1 ∧ 2 * (n : ℚ) / spb = ((2 * j + 1 : Nat) : ℚ)) ∧
  ((20 : ℚ) / 40 = 0 + 1 / 2 ∧ (60 : ℚ) / 40 = 1 + 1 / 2 ∧ (100 : ℚ) / 40 = 2 + 1 / 2) ∧
  ∀ n j : Nat, (n : ℚ) / (147 / 4) ≠ (j : ℚ) + 1 / 2

/-- RECOVER of a run list with a run of fewer than SPB/2 samples in it is RECOVER of the part before it followed by
RECOVER of the part after it; and the length of the stream is the sum of the rounded runs. Rests on R133, R134. -/
def Obligations.GlitchRunsVanishUnmerged : Prop :=
  (∀ (spb : ℚ) (before after : List Run) (r : Run), 0 < spb → (r.len : ℚ) < spb / 2 →
    recoverBits spb (before ++ r :: after) = recoverBits spb before ++ recoverBits spb after) ∧
  (∀ (spb : ℚ) (rs : List Run), (recoverBits spb rs).length = (rs.map fun r => bitPeriods spb r.len).sum) ∧
  recoverBits 4 [⟨true, 10⟩, ⟨false, 1⟩, ⟨true, 10⟩] = List.replicate 6 true ∧
  recoverBits 4 [⟨true, 21⟩] = List.replicate 5 true

/-- ASSEMBLE of fewer than 91 bit periods ends with INCOMPLETE(length); of 91 or more it ends with nine bytes, bit k of
byte i being bit period 10·i + k + 1 of the stream; nothing but the result changes. Formalises R150. -/
def Obligations.AssembleReadsLsbFirst : Prop :=
  (∀ (s : State) (b : Block) (bits : List Bit), s.block = some b → bits.length < 91 →
    exec (.assemble bits) s = .next { s with result := .fail (.incomplete bits.length) }) ∧
  (∀ (s : State) (b : Block) (bits : List Bit), s.block = some b → 91 ≤ bits.length →
    ∃ pkt : Packet, exec (.assemble bits) s = .next { s with result := .ok (.packet pkt) } ∧
      ∀ i k : Nat, i < 9 → k < 8 →
        ((packetBytes pkt)[i]?.map fun byte => byte.getLsbD k) = bits[10 * i + k + 1]?)

/-- Two streams of at least 91 bit periods that agree on the 72 data periods give the same answer of ASSEMBLE in every
state, whatever their leading bit, framing bits and later periods. Rests on R153. -/
def Obligations.AssembleIgnoresFramingBits : Prop :=
  ∀ (s : State) (bits bits' : List Bit), 91 ≤ bits.length → 91 ≤ bits'.length →
    (∀ i k : Nat, i < 9 → k < 8 → bits[10 * i + k + 1]? = bits'[10 * i + k + 1]?) →
    exec (.assemble bits) s = exec (.assemble bits') s

/-- VALIDATE ends with the Signal of the packet (its status byte, each digit byte less 48) exactly when all four rules
hold, over the integers, and with INVALID, the same whichever rule fails, otherwise; nothing but the result changes.
Formalises R170, R175, R176. -/
def Obligations.ValidateRules : Prop :=
  ∀ (s : State) (b : Block) (p : Packet), s.block = some b →
    ((p.status ∈ [0x49#8, 0x41#8, 0x20#8, 0x53#8, 0x4C#8, 0x52#8, 0x43#8] ∧
        (∀ x ∈ [p.digit0, p.digit1, p.digit2, p.digit3, p.digit4], 48 ≤ x.toNat ∧ x.toNat ≤ 57) ∧
        ((p.digit0.toNat : Int) - 48) + ((p.digit1.toNat : Int) - 48) + ((p.digit2.toNat : Int) - 48) +
          ((p.digit3.toNat : Int) - 48) + ((p.digit4.toNat : Int) - 48) = (p.checksum.toNat : Int) - 64 ∧
        p.term1.toNat = 10 ∧ p.term2.toNat = 13 ∧
        ∃ sig : Signal, exec (.validate p) s = .next { s with result := .ok (.signal sig) } ∧
          sig.status = p.status ∧ sig.digits.d0.val + 48 = p.digit0.toNat ∧ sig.digits.d1.val + 48 = p.digit1.toNat ∧
          sig.digits.d2.val + 48 = p.digit2.toNat ∧ sig.digits.d3.val + 48 = p.digit3.toNat ∧
          sig.digits.d4.val + 48 = p.digit4.toNat) ∨
      (¬(p.status ∈ [0x49#8, 0x41#8, 0x20#8, 0x53#8, 0x4C#8, 0x52#8, 0x43#8] ∧
          (∀ x ∈ [p.digit0, p.digit1, p.digit2, p.digit3, p.digit4], 48 ≤ x.toNat ∧ x.toNat ≤ 57) ∧
          ((p.digit0.toNat : Int) - 48) + ((p.digit1.toNat : Int) - 48) + ((p.digit2.toNat : Int) - 48) +
            ((p.digit3.toNat : Int) - 48) + ((p.digit4.toNat : Int) - 48) = (p.checksum.toNat : Int) - 64 ∧
          p.term1.toNat = 10 ∧ p.term2.toNat = 13) ∧
        exec (.validate p) s = .next { s with result := .fail .invalid }))

/-- For every legal status code and five digits VALIDATE of PKT gives exactly that Signal; with the checksum byte one
more or one less it gives INVALID; digit bytes of the same sum put in their place, as by swapping any two of the
five or by raising one and lowering another, still pass under the old checksum byte, with the digits those bytes
stand for. Rests on R179. -/
def Obligations.PacketRoundTrip : Prop :=
  ∀ (s : State) (b : Block) (c : Byte) (d : Digits), s.block = some b → c ∈ statusCodes →
    exec (.validate (pktOf c d)) s = .next { s with result := .ok (.signal ⟨c, d⟩) } ∧
    exec (.validate { pktOf c d with checksum := (pktOf c d).checksum + 1 }) s =
      .next { s with result := .fail .invalid } ∧
    exec (.validate { pktOf c d with checksum := (pktOf c d).checksum - 1 }) s =
      .next { s with result := .fail .invalid } ∧
    ∀ d' : Digits,
      d'.d0.val + d'.d1.val + d'.d2.val + d'.d3.val + d'.d4.val = d.d0.val + d.d1.val + d.d2.val + d.d3.val + d.d4.val →
      exec (.validate { pktOf c d with
          digit0 := (pktOf c d').digit0, digit1 := (pktOf c d').digit1, digit2 := (pktOf c d').digit2
          digit3 := (pktOf c d').digit3, digit4 := (pktOf c d').digit4 }) s =
        .next { s with result := .ok (.signal ⟨c, d'⟩) }

/-- While not capturing the result is IGNORED whatever the buffer holds; while capturing under ABORT a buffer with a
zero-class sample gives INDETERMINATE at the least such index, even with no frame; under HOLD a buffer of zero-class
samples alone gives SYNC_MISS. Rests on R254. -/
def Obligations.EarlierCauseWins : Prop :=
  ∀ (s : State) (b : Block) (buf : List Sample) (i : Nat) (x : Sample), s.block = some b → bufferFits s buf = true →
    buf[i]? = some x → classify x = .zero → (∀ j y, j < i → buf[j]? = some y → classify y ≠ .zero) →
    (b.capturing = false → exec (.processBuffer buf) s = .next { s with result := .fail .ignored }) ∧
    (b.capturing = true → b.zeroPolicy = .abort →
      exec (.processBuffer buf) s = .next { s with result := .fail (.indeterminate i) }) ∧
    (b.capturing = true → b.zeroPolicy = .hold → (∀ y ∈ buf, classify y = .zero) →
      exec (.processBuffer buf) s = .next { s with result := .fail .syncMiss })

/-- Each view, DECODE and each stage probe, where it answers a next state, leaves every field but the result as it was,
and the same operation again answers that very state. Rests on R59, R228. -/
def Obligations.ReadOnlyOperationsKeepState : Prop :=
  ∀ (s t : State) (i : Instr), isReadOnly i = true → exec i s = .next t →
    t = { s with result := t.result } ∧ exec i t = .next t

/-- In two states whose blocks agree on spb and zero_policy, with the same MAX_BUFFER_LEN, DECODE and each stage probe
give the same result, whatever the Timer State, the capture mode and the rest of the state. Rests on R59, R223,
92_eei_decisions.md D26. -/
def Obligations.StageOperationsReadOnlyConfiguration : Prop :=
  ∀ (s s' : State) (b b' : Block) (i : Instr), isStageOp i = true → s.block = some b → s'.block = some b' →
    b.spb = b'.spb → b.zeroPolicy = b'.zeroPolicy → s.maxBufferLen = s'.maxBufferLen →
    resultOf (exec i s) = resultOf (exec i s')

/-- An instruction that is none of CONSTRUCT, PROCESS_BUFFER, APPLY and the seven status rows leaves the Timer State as
it was. Rests on R59, R24. -/
def Obligations.OnlySignalsWriteTimer : Prop :=
  ∀ (s t : State) (i : Instr), mayWriteTimer i = false → exec i s = .next t →
    t.block.map Block.timer = s.block.map Block.timer

/-- Every instruction but CONSTRUCT leaves the samples-per-bit and the zero policy of the block as they were, and no
instruction writes MAX_BUFFER_LEN (that it is a field of State which no operation writes is the model's choice, log
12). Rests on R22, R64, R9, notes/assumptions/12.md. -/
def Obligations.ConfigurationIsFixed : Prop :=
  ∀ (s t : State) (i : Instr), exec i s = .next t →
    t.maxBufferLen = s.maxBufferLen ∧
    (isConstruct i = false →
      t.block.map Block.spb = s.block.map Block.spb ∧ t.block.map Block.zeroPolicy = s.block.map Block.zeroPolicy)

/-- Every instruction but CONSTRUCT, START and STOP leaves the capture mode as it was. Rests on R23. -/
def Obligations.CaptureModeWriters : Prop :=
  ∀ (s t : State) (i : Instr), mayWriteCapturing i = false → exec i s = .next t →
    t.block.map Block.capturing = s.block.map Block.capturing

/-- An instruction answers a next state exactly if it is CONSTRUCT, or a block exists, its operands have the forms of
the spec and its buffer, if any, is within MAX_BUFFER_LEN; in every other case it is refused, and never faults.
(That SAMPLE is bounded by MAX_BUFFER_LEN too is the model's choice, log 12: the rule names PROCESS_BUFFER and
DECODE.) Rests on R229, R9, R82, notes/assumptions/12.md. -/
def Obligations.OperationPreconditions : Prop :=
  ∀ (s : State) (i : Instr),
    ((∃ t, exec i s = .next t) ↔
      isConstruct i = true ∨ (s.block ≠ none ∧ i.wellFormed = true ∧ ∀ buf, bufferOf i = some buf → bufferFits s buf = true)) ∧
    ((¬∃ t, exec i s = .next t) → ∃ r : Refusal, exec i s = .refused r ∧ r.IsInterface)

/-- The reset state has a block, not capturing, under ABORT, with running false, reset true, both hands false and digits
zero, and a positive samples-per-bit; no request is pending, nothing is delivered, the result is the OK of the
construction, no bound is set on buffers, and the invariant holds. (The model's choices: the operand of that
construction, log 1; that a block exists after reset, log 2; no request, log 4; the result and the deliveries, log
5; no bound, log 12.) Rests on R30, R280, R22, R26, notes/assumptions/1.md, notes/assumptions/2.md,
notes/assumptions/4.md, notes/assumptions/5.md, notes/assumptions/12.md. -/
def Obligations.ResetStateMeetsInvariant : Prop :=
  (∃ b : Block, State.reset.block = some b ∧ 0 < b.spb ∧ b.zeroPolicy = .abort ∧ b.capturing = false ∧
    b.timer = { running := false, reset := true, left := false, right := false, digits := ⟨0, 0, 0, 0, 0⟩ }) ∧
  State.reset.pending = [] ∧ State.reset.delivered = [] ∧ State.reset.result = .ok .unit ∧
  State.reset.maxBufferLen = none ∧ State.reset.Inv

/-- From every state that meets the invariant, a step that answers a next state gives a state that meets it: a block's
samples-per-bit is positive, its timer is never running and reset together, and every delivery holds a legal Signal
and a snapshot with its digits on the axis. Rests on R22, R26, R29, R227. -/
def Obligations.StepKeepsInvariant : Prop :=
  ∀ s t : State, s.Inv → step s = .next t → t.Inv

/-- Where the oldest pending request is serial and decodes to an instruction, the step is that instruction executed on
the state with the request taken off the queue (the queue is the model's, log 4). Rests on R61, R84,
notes/assumptions/4.md. -/
def Obligations.StepRunsPendingInstruction : Prop :=
  ∀ (s : State) (r : Request) (rest : List Request) (i : Instr), s.pending = r :: rest → r.issue = .serial →
    decode r.port r.bytes = .ok i → step s = exec i { s with pending := rest }

/-- A request issued while another operation runs, or by the observer during a delivery, is refused by a name of its
own, as is a serial request whose bytes decode to nothing. (The model's choices: the queue, log 4; the mark of how a
request was issued, log 13; that a refusal ends the run instead of dropping the request, log 3.) Rests on R284,
R288, R82, notes/assumptions/3.md, notes/assumptions/4.md, notes/assumptions/13.md. -/
def Obligations.StepRefusesWhatHasNoMeaning : Prop :=
  ∀ (s : State) (r : Request) (rest : List Request), s.pending = r :: rest →
    (r.issue = .overlapping → step s = .refused .overlappingOperation) ∧
    (r.issue = .reentrant → step s = .refused .reentrantOperation) ∧
    (∀ e, r.issue = .serial → decode r.port r.bytes = .error e → step s = .refused (.undecodable e))

/-- Nothing in the block advances by itself: where the host has issued nothing, a step answers the same state (the
model's choice, log 4). Rests on R259, R262, notes/assumptions/4.md. -/
def Obligations.StepIdlesWithNothingPending : Prop :=
  ∀ s : State, s.pending = [] → step s = .next s

/-- For every well-formed instruction, every operand at every value, decoding its encoding at its port gives the
instruction itself (the byte format of the operands is the model's, log 6). Rests on R79, R80, R84,
notes/assumptions/6.md. -/
def Obligations.DecodeUndoesEncode : Prop :=
  ∀ i : Instr, i.wellFormed = true → decode (portOf i) (encode i) = .ok i

/-- Some lines of the spec's programs and some rows of the table, written out byte by byte, decode to the instruction
they stand for, and five instructions encode to the bytes written out (operand bytes, the length byte of a sequence
among them, in the model's format, log 6; the Signal port is log 7). Rests on R74, R79, R80, R84, 95_test_vectors.md
P1, P3, notes/assumptions/6.md, notes/assumptions/7.md. -/
def Obligations.SpecWordsDecode : Prop :=
  decode .hostOp [0x02] = .ok .start ∧ decode .hostOp [0x10] = .ok .getTimeStr ∧
  decode .hostOp [0x06, 0x49, 0x00, 0x00, 0x00, 0x00, 0x00] = .ok (.apply 0x49 ⟨0, 0, 0, 0, 0⟩) ∧
  decode .hostOp [0x01, 0x08, 0x02, 0x00] = .ok (.construct (some (4, 1)) .abort) ∧
  decode .hostOp [0x26, 0x49, 0x31, 0x33, 0x30, 0x32, 0x38, 0x4E, 0x0A, 0x0D] =
    .ok (.validate ⟨0x49, 0x31, 0x33, 0x30, 0x32, 0x38, 0x4E, 0x0A, 0x0D⟩) ∧
  decode .signal [0x53, 0x00, 0x01, 0x02, 0x03, 0x04] = .ok (.statusS ⟨0, 1, 2, 3, 4⟩) ∧
  encode (.decode []) = [0x05, 0x00] ∧ encode (.sample []) = [0x20, 0x00] ∧
  encode (.resolve [.indet]) = [0x21, 0x01, 0x02] ∧ encode (.runs []) = [0x23, 0x00] ∧
  encode (.assemble []) = [0x25, 0x00]

/-- Every one of the 235 selector bytes that the table does not list, with any operand bytes, is rejected as an
unassigned selector; every one of the 249 bytes that are no status code is rejected on the Signal port (a port of
the model's own, log 7). Rests on R79, R82, notes/assumptions/7.md. -/
def Obligations.UnassignedSelectorsAreRejected : Prop :=
  (∀ (sel : Byte) (operands : List Byte),
    sel ∉ [0x01#8, 0x02#8, 0x03#8, 0x04#8, 0x05#8, 0x06#8, 0x10#8, 0x11#8, 0x12#8, 0x13#8, 0x14#8, 0x15#8, 0x16#8,
      0x17#8, 0x20#8, 0x21#8, 0x22#8, 0x23#8, 0x24#8, 0x25#8, 0x26#8] →
    decode .hostOp (sel :: operands) = .error .unassignedSelector) ∧
  ∀ (c : Byte) (digits : List Byte), c ∉ statusCodes → decode .signal (c :: digits) = .error .unassignedStatus

/-- Where a step answers a next state, the deliveries before it are kept as they are and at most one is added; one that
is added carries the Timer State the step leaves in the block and is the step's result; a step whose result carries
no delivery adds none. Rests on R63, R227, R230. -/
def Obligations.DeliveriesAreFinalAndOnePerStep : Prop :=
  ∀ s t : State, step s = .next t →
    t.delivered = s.delivered ∨
      ∃ e : Emission, t.delivered = s.delivered ++ [e] ∧ t.result = .ok (.emission e) ∧
        t.block.map Block.timer = some e.snapshot ∧ e.signal.Legal

/-- For every samples-per-bit of 2 or more (integer or not), every sampling phase in [0, 1), every legal Signal, 10 or
more bit periods of idle before its frame and 1 or more after it: PROCESS_BUFFER of the synthesized buffer, while
capturing, applies exactly that Signal, delivers it with the snapshot after it, and ends with OK_SIGNAL, under
either zero policy. Rests on R85, R224, R225, R285, 95_test_vectors.md E12, P1, P5. -/
def Obligations.SynthesizedFrameIsApplied : Prop :=
  ∀ (s : State) (b : Block) (phase : ℚ) (c : Byte) (d : Digits) (pre post : Nat), s.block = some b →
    b.capturing = true → 2 ≤ b.spb → 0 ≤ phase → phase < 1 → c ∈ statusCodes → 10 ≤ pre → 1 ≤ post →
    bufferFits s (synth (lineOf (pktOf c d) pre post) b.spb phase) = true →
    exec (.processBuffer (synth (lineOf (pktOf c d) pre post) b.spb phase)) s = .next { s with
      block := some { b with timer := applySignal ⟨c, d⟩ b.timer }
      delivered := s.delivered ++ [⟨⟨c, d⟩, applySignal ⟨c, d⟩ b.timer⟩]
      result := .ok (.emission ⟨⟨c, d⟩, applySignal ⟨c, d⟩ b.timer⟩) }

/-- For a whole number n ≥ 1 of samples a bit, a line held for n samples a bit period is recovered, by RUNS and then
RECOVER, as the line itself, whatever its symbols. Rests on R130, R131, R136. -/
def Obligations.RecoveredStreamUndoesOversampling : Prop :=
  ∀ (n : Nat) (line : List Bit), 1 ≤ n →
    recoverBits (n : ℚ) (runsOf (line.flatMap fun v => List.replicate n v)) = line

/-- In the 90 bit periods of the packet of any legal Signal every run of 1s has length at most 5, and a run of 5 occurs
for digit sum 31. Rests on R116. -/
def Obligations.MarkRunsInFrameAreShort : Prop :=
  (∀ (c : Byte) (d : Digits), c ∈ statusCodes → ∀ r ∈ runsOf (framePeriods (pktOf c d)), r.sym = true → r.len ≤ 5) ∧
  ∀ (c : Byte) (d : Digits), c ∈ statusCodes → d.d0.val + d.d1.val + d.d2.val + d.d3.val + d.d4.val = 31 →
    (⟨true, 5⟩ : Run) ∈ runsOf (framePeriods (pktOf c d))

/-- OK is 0, IGNORED 1, SYNC_MISS 2, INCOMPLETE 3, INVALID 4, INDETERMINATE 5 and CONFIG_ERROR 6, whatever they record.
Rests on R250, 92_eei_decisions.md D12. -/
def Obligations.ResultCodeNumbers : Prop :=
  (∀ v, resultCode (.ok v) = 0) ∧ resultCode (.fail .ignored) = 1 ∧ resultCode (.fail .syncMiss) = 2 ∧
  (∀ n, resultCode (.fail (.incomplete n)) = 3) ∧ resultCode (.fail .invalid) = 4 ∧
  (∀ i, resultCode (.fail (.indeterminate i)) = 5) ∧ resultCode (.fail .configError) = 6

/-- After any CONSTRUCT that makes a block, GET_TIME_STR gives the bytes of "0:00.00" and GET_TIME_MS gives 0. (The
model's readings: that a pair with both integers negative makes a block, log 9, read from C8; that where a block was
already there the views read the new one, log 10.) Rests on R31, 90_conflicts.md C8, notes/assumptions/9.md,
notes/assumptions/10.md. -/
def Obligations.ResetViewsReadZero : Prop :=
  ∀ (s t : State) (p q : Int) (z : ZeroPolicy), q ≠ 0 → 0 < (p : ℚ) / (q : ℚ) →
    exec (.construct (some (p, q)) z) s = .next t →
    exec .getTimeStr t = .next { t with result := .ok (.bytes [0x30, 0x3A, 0x30, 0x30, 0x2E, 0x30, 0x30]) } ∧
    exec .getTimeMs t = .next { t with result := .ok (.nat 0) }

/-- For every block and every buffer within MAX_BUFFER_LEN: SAMPLE gives symbols; RESOLVE of them raises INDETERMINATE,
and DECODE ends with that code, or gives bits; SYNC of those raises SYNC_MISS, and DECODE ends with it, or gives an
index; RUNS of the suffix from that index and RECOVER of the runs succeed; ASSEMBLE of the stream raises INCOMPLETE,
and DECODE ends with that code and its length, or gives a packet; VALIDATE of it raises INVALID, and DECODE ends
with it, or gives the Signal DECODE ends with. Each probe named is the operation itself on the same state.
Formalises R224. -/
def Obligations.DecodeRunsTheStagesInOrder : Prop :=
  ∀ (s : State) (b : Block) (buf : List Sample), s.block = some b → bufferFits s buf = true →
    ∃ sym, exec (.sample buf) s = .next { s with result := .ok (.symbols sym) } ∧
      ((∃ i, exec (.resolve sym) s = .next { s with result := .fail (.indeterminate i) } ∧
          exec (.decode buf) s = .next { s with result := .fail (.indeterminate i) }) ∨
        ∃ rsym, exec (.resolve sym) s = .next { s with result := .ok (.bits rsym) } ∧
          ((exec (.sync rsym) s = .next { s with result := .fail .syncMiss } ∧
              exec (.decode buf) s = .next { s with result := .fail .syncMiss }) ∨
            ∃ k rs bits, exec (.sync rsym) s = .next { s with result := .ok (.index k) } ∧
              exec (.runs (rsym.drop k)) s = .next { s with result := .ok (.runs rs) } ∧
              exec (.recover rs) s = .next { s with result := .ok (.bits bits) } ∧
              ((∃ n, exec (.assemble bits) s = .next { s with result := .fail (.incomplete n) } ∧
                  exec (.decode buf) s = .next { s with result := .fail (.incomplete n) }) ∨
                ∃ pkt, exec (.assemble bits) s = .next { s with result := .ok (.packet pkt) } ∧
                  ((exec (.validate pkt) s = .next { s with result := .fail .invalid } ∧
                      exec (.decode buf) s = .next { s with result := .fail .invalid }) ∨
                    ∃ sig, exec (.validate pkt) s = .next { s with result := .ok (.signal sig) } ∧
                      exec (.decode buf) s = .next { s with result := .ok (.signal sig) }))))
end

