-- ==== Sys2Proof/Laws/Decode.lean ====
section
/-! SUPPORT. Laws/Decode.lean: each operand reader undoes its encoder, whatever bytes follow. -/

namespace Sys2Proof

@[simp] theorem takeByte_cons (b : Byte) (r : List Byte) : takeByte (b :: r) = .ok (b, r) := rfl

theorem takeNat_encodeNatFuel (fuel n : Nat) (hn : n < 2 ^ (fuel + 7)) (r : List Byte) :
    takeNat (encodeNatFuel fuel n ++ r) = .ok (n, r) := by
  induction fuel generalizing n with
  | zero =>
    have h : n < 128 := by simpa using hn
    have hb : n % 256 = n := by omega
    simp [encodeNatFuel, takeNat, hb, h]
  | succ fuel ih =>
    by_cases h : n < 128
    · have hb : n % 256 = n := by omega
      simp [encodeNatFuel, takeNat, hb, h]
    · have hd : n / 128 < 2 ^ (fuel + 7) := by
        rw [Nat.div_lt_iff_lt_mul (by decide)]
        calc n < 2 ^ (fuel + 1 + 7) := hn
          _ ≤ 2 ^ (fuel + 7) * 128 := by rw [show fuel + 1 + 7 = fuel + 7 + 1 by omega, pow_succ]; omega
      have hb : (128 + n % 128) % 256 = 128 + n % 128 := by omega
      simp [encodeNatFuel, takeNat, h, ih _ hd, hb]; omega

/-- The base-128 digits of a natural number read back as that number. -/
@[simp] theorem takeNat_encodeNat (n : Nat) (r : List Byte) : takeNat (encodeNat n ++ r) = .ok (n, r) := by
  refine takeNat_encodeNatFuel _ _ ?_ r
  calc n < 2 ^ (n.log2 + 1) := Nat.lt_log2_self
    _ ≤ 2 ^ (n.log2 + 7) := Nat.pow_le_pow_right (by decide) (by omega)

@[simp] theorem intOfNat_natOfInt (z : Int) : intOfNat (natOfInt z) = z := by
  cases z with
  | ofNat n => simp [natOfInt, intOfNat]
  | negSucc n =>
    have h : (2 * n + 1) / 2 = n := by omega
    simp [natOfInt, intOfNat, h]

@[simp] theorem takeInt_encodeInt (z : Int) (r : List Byte) : takeInt (encodeInt z ++ r) = .ok (z, r) := by
  simp [takeInt, encodeInt]

@[simp] theorem takeBit_encodeBit (b : Bit) (r : List Byte) : takeBit (encodeBit b ++ r) = .ok (b, r) := by
  cases b <;> simp [encodeBit, takeBit]

@[simp] theorem takeSymbol_encodeSymbol (x : Symbol) (r : List Byte) :
    takeSymbol (encodeSymbol x ++ r) = .ok (x, r) := by
  rcases x with ⟨_ | _⟩ | _ <;> simp [encodeSymbol, encodeBit, takeSymbol]

@[simp] theorem takePolicy_encodePolicy (z : ZeroPolicy) (r : List Byte) :
    takePolicy (encodePolicy z ++ r) = .ok (z, r) := by
  cases z <;> simp [encodePolicy, takePolicy]

@[simp] theorem takeSample_encodeSample (x : Sample) (r : List Byte) :
    takeSample (encodeSample x ++ r) = .ok (x, r) := by
  cases x <;> simp [encodeSample, takeSample, Rat.mkRat_self]

@[simp] theorem takeRun_encodeRun (x : Run) (r : List Byte) : takeRun (encodeRun x ++ r) = .ok (x, r) := by
  simp [encodeRun, takeRun]

theorem encodeDigit_toNat (d : Fin 10) : (encodeDigit d).toNat = d.val := by
  simp [encodeDigit]; omega

@[simp] theorem takeDigit_encodeDigit (d : Fin 10) (r : List Byte) :
    takeDigit (encodeDigit d :: r) = .ok (d, r) := by
  simp [takeDigit, encodeDigit_toNat]

@[simp] theorem takeDigits_encodeDigits (d : Digits) (r : List Byte) :
    takeDigits (encodeDigits d ++ r) = .ok (d, r) := by
  simp [takeDigits, encodeDigits, bind, Except.bind, pure, Except.pure]

@[simp] theorem takePacket_packetBytes (p : Packet) (r : List Byte) :
    takePacket (packetBytes p ++ r) = .ok (p, r) := rfl

/-- A reader that undoes its encoder reads back a sequence of any length. -/
theorem takeSeq_encodeSeq {α : Type} {take : List Byte → Except DecodeError (α × List Byte)} {enc : α → List Byte}
    (h : ∀ x r, take (enc x ++ r) = .ok (x, r)) (xs : List α) (r : List Byte) :
    takeSeq take (encodeSeq enc xs ++ r) = .ok (xs, r) := by
  have many : ∀ xs : List α, takeMany take xs.length (xs.flatMap enc ++ r) = .ok (xs, r) := by
    intro xs
    induction xs with
    | nil => rfl
    | cons x xs ih => simp [takeMany, h, ih]
  simp [takeSeq, encodeSeq, many]

end Sys2Proof
end

