-- ==== Sys2Proof/Laws/State.lean ====
section
/-! SUPPORT. Laws/State.lean: one lemma per field per update, so that no proof unfolds a record update. -/

namespace Sys2Proof.Machine
/-! State.withBlock -/
@[simp] theorem State.withBlock_block (s : State) (b : Option Block) : (s.withBlock b).block = b := rfl
@[simp] theorem State.withBlock_maxBufferLen (s : State) (b : Option Block) : (s.withBlock b).maxBufferLen = s.maxBufferLen := rfl
@[simp] theorem State.withBlock_pending (s : State) (b : Option Block) : (s.withBlock b).pending = s.pending := rfl
@[simp] theorem State.withBlock_result (s : State) (b : Option Block) : (s.withBlock b).result = s.result := rfl
@[simp] theorem State.withBlock_delivered (s : State) (b : Option Block) : (s.withBlock b).delivered = s.delivered := rfl
/-! State.withResult -/
@[simp] theorem State.withResult_block (s : State) (r : Result) : (s.withResult r).block = s.block := rfl
@[simp] theorem State.withResult_maxBufferLen (s : State) (r : Result) : (s.withResult r).maxBufferLen = s.maxBufferLen := rfl
@[simp] theorem State.withResult_pending (s : State) (r : Result) : (s.withResult r).pending = s.pending := rfl
@[simp] theorem State.withResult_result (s : State) (r : Result) : (s.withResult r).result = r := rfl
@[simp] theorem State.withResult_delivered (s : State) (r : Result) : (s.withResult r).delivered = s.delivered := rfl
/-! State.withPending -/
@[simp] theorem State.withPending_block (s : State) (rs : List Request) : (s.withPending rs).block = s.block := rfl
@[simp] theorem State.withPending_maxBufferLen (s : State) (rs : List Request) : (s.withPending rs).maxBufferLen = s.maxBufferLen := rfl
@[simp] theorem State.withPending_pending (s : State) (rs : List Request) : (s.withPending rs).pending = rs := rfl
@[simp] theorem State.withPending_result (s : State) (rs : List Request) : (s.withPending rs).result = s.result := rfl
@[simp] theorem State.withPending_delivered (s : State) (rs : List Request) : (s.withPending rs).delivered = s.delivered := rfl
/-! State.emit -/
@[simp] theorem State.emit_block (s : State) (e : Emission) : (s.emit e).block = s.block := rfl
@[simp] theorem State.emit_maxBufferLen (s : State) (e : Emission) : (s.emit e).maxBufferLen = s.maxBufferLen := rfl
@[simp] theorem State.emit_pending (s : State) (e : Emission) : (s.emit e).pending = s.pending := rfl
@[simp] theorem State.emit_result (s : State) (e : Emission) : (s.emit e).result = s.result := rfl
@[simp] theorem State.emit_delivered (s : State) (e : Emission) : (s.emit e).delivered = s.delivered ++ [e] := rfl
/-! Block.withCapturing -/
@[simp] theorem Block.withCapturing_spb (b : Block) (on : Bool) : (b.withCapturing on).spb = b.spb := rfl
@[simp] theorem Block.withCapturing_zeroPolicy (b : Block) (on : Bool) : (b.withCapturing on).zeroPolicy = b.zeroPolicy := rfl
@[simp] theorem Block.withCapturing_capturing (b : Block) (on : Bool) : (b.withCapturing on).capturing = on := rfl
@[simp] theorem Block.withCapturing_timer (b : Block) (on : Bool) : (b.withCapturing on).timer = b.timer := rfl
/-! Block.withTimer -/
@[simp] theorem Block.withTimer_spb (b : Block) (t : Timer) : (b.withTimer t).spb = b.spb := rfl
@[simp] theorem Block.withTimer_zeroPolicy (b : Block) (t : Timer) : (b.withTimer t).zeroPolicy = b.zeroPolicy := rfl
@[simp] theorem Block.withTimer_capturing (b : Block) (t : Timer) : (b.withTimer t).capturing = b.capturing := rfl
@[simp] theorem Block.withTimer_timer (b : Block) (t : Timer) : (b.withTimer t).timer = t := rfl
/-! clearHands -/
@[simp] theorem clearHands_running (t : Timer) : (clearHands t).running = t.running := rfl
@[simp] theorem clearHands_reset (t : Timer) : (clearHands t).reset = t.reset := rfl
@[simp] theorem clearHands_left (t : Timer) : (clearHands t).left = false := rfl
@[simp] theorem clearHands_right (t : Timer) : (clearHands t).right = false := rfl
@[simp] theorem clearHands_digits (t : Timer) : (clearHands t).digits = t.digits := rfl
/-! flagsSpace -/
@[simp] theorem flagsSpace_running (t : Timer) : (flagsSpace t).running = true := rfl
@[simp] theorem flagsSpace_reset (t : Timer) : (flagsSpace t).reset = false := rfl
@[simp] theorem flagsSpace_left (t : Timer) : (flagsSpace t).left = t.left := rfl
@[simp] theorem flagsSpace_right (t : Timer) : (flagsSpace t).right = t.right := rfl
@[simp] theorem flagsSpace_digits (t : Timer) : (flagsSpace t).digits = t.digits := rfl
/-! flagsS -/
@[simp] theorem flagsS_running (t : Timer) : (flagsS t).running = false := rfl
@[simp] theorem flagsS_reset (t : Timer) : (flagsS t).reset = false := rfl
@[simp] theorem flagsS_left (t : Timer) : (flagsS t).left = t.left := rfl
@[simp] theorem flagsS_right (t : Timer) : (flagsS t).right = t.right := rfl
@[simp] theorem flagsS_digits (t : Timer) : (flagsS t).digits = t.digits := rfl
/-! flagsI -/
@[simp] theorem flagsI_running (t : Timer) : (flagsI t).running = false := rfl
@[simp] theorem flagsI_reset (t : Timer) : (flagsI t).reset = true := rfl
@[simp] theorem flagsI_left (t : Timer) : (flagsI t).left = t.left := rfl
@[simp] theorem flagsI_right (t : Timer) : (flagsI t).right = t.right := rfl
@[simp] theorem flagsI_digits (t : Timer) : (flagsI t).digits = t.digits := rfl
/-! flagsL -/
@[simp] theorem flagsL_running (t : Timer) : (flagsL t).running = t.running := rfl
@[simp] theorem flagsL_reset (t : Timer) : (flagsL t).reset = t.reset := rfl
@[simp] theorem flagsL_left (t : Timer) : (flagsL t).left = true := rfl
@[simp] theorem flagsL_right (t : Timer) : (flagsL t).right = t.right := rfl
@[simp] theorem flagsL_digits (t : Timer) : (flagsL t).digits = t.digits := rfl
/-! flagsR -/
@[simp] theorem flagsR_running (t : Timer) : (flagsR t).running = t.running := rfl
@[simp] theorem flagsR_reset (t : Timer) : (flagsR t).reset = t.reset := rfl
@[simp] theorem flagsR_left (t : Timer) : (flagsR t).left = t.left := rfl
@[simp] theorem flagsR_right (t : Timer) : (flagsR t).right = true := rfl
@[simp] theorem flagsR_digits (t : Timer) : (flagsR t).digits = t.digits := rfl
/-! flagsC -/
@[simp] theorem flagsC_running (t : Timer) : (flagsC t).running = false := rfl
@[simp] theorem flagsC_reset (t : Timer) : (flagsC t).reset = t.reset := rfl
@[simp] theorem flagsC_left (t : Timer) : (flagsC t).left = true := rfl
@[simp] theorem flagsC_right (t : Timer) : (flagsC t).right = true := rfl
@[simp] theorem flagsC_digits (t : Timer) : (flagsC t).digits = t.digits := rfl
/-! flagsA -/
@[simp] theorem flagsA_running (t : Timer) : (flagsA t).running = t.running := rfl
@[simp] theorem flagsA_reset (t : Timer) : (flagsA t).reset = t.reset := rfl
@[simp] theorem flagsA_left (t : Timer) : (flagsA t).left = t.left := rfl
@[simp] theorem flagsA_right (t : Timer) : (flagsA t).right = t.right := rfl
@[simp] theorem flagsA_digits (t : Timer) : (flagsA t).digits = t.digits := rfl
/-! writeDigits -/
@[simp] theorem writeDigits_running (d : Digits) (t : Timer) : (writeDigits d t).running = t.running := rfl
@[simp] theorem writeDigits_reset (d : Digits) (t : Timer) : (writeDigits d t).reset = t.reset := rfl
@[simp] theorem writeDigits_left (d : Digits) (t : Timer) : (writeDigits d t).left = t.left := rfl
@[simp] theorem writeDigits_right (d : Digits) (t : Timer) : (writeDigits d t).right = t.right := rfl
@[simp] theorem writeDigits_digits (d : Digits) (t : Timer) : (writeDigits d t).digits = d := rfl
/-! newBlock: the state CONSTRUCT produces (10_state.md R30) -/
@[simp] theorem newBlock_spb (q : ℚ) (z : ZeroPolicy) : (newBlock q z).spb = q := rfl
@[simp] theorem newBlock_zeroPolicy (q : ℚ) (z : ZeroPolicy) : (newBlock q z).zeroPolicy = z := rfl
@[simp] theorem newBlock_capturing (q : ℚ) (z : ZeroPolicy) : (newBlock q z).capturing = false := rfl
@[simp] theorem newBlock_timer (q : ℚ) (z : ZeroPolicy) :
    (newBlock q z).timer = { running := false, reset := true, left := false, right := false, digits := ⟨0, 0, 0, 0, 0⟩ } :=
  rfl

end Sys2Proof.Machine
end

