-- ==== Sys2Proof/Laws/Ops.lean ====
section
/-! SUPPORT. Laws/Ops.lean: for each shared operation, once, everything it can do; and for exec and step, once, every way
they can answer a next state. -/

namespace Sys2Proof.Machine

variable {s t : State} {b : Block}

/-! ### Endings -/

@[simp] theorem finish_eq_next (v : Value) : finish s v = .next t ↔ t = s.withResult (.ok v) := by
  simp [finish, eq_comm]

@[simp] theorem raise_eq_next (f : Failure) : raise s f = .next t ↔ t = s.withResult (.fail f) := by
  simp [raise, eq_comm]

theorem settle_next {r : Except Failure Value} (h : settle s r = .next t) :
    (∃ v, r = .ok v ∧ t = s.withResult (.ok v)) ∨ ∃ f, r = .error f ∧ t = s.withResult (.fail f) := by
  cases r with
  | ok v => exact .inl ⟨v, rfl, by simpa [settle] using h⟩
  | error f => exact .inr ⟨f, rfl, by simpa [settle] using h⟩

/-! ### Guards -/

theorem onBlock_some {k : Block → Answer} (h : s.block = some b) : onBlock s k = k b := by
  simp [onBlock, h]

theorem onBlock_none {k : Block → Answer} (h : s.block = none) : onBlock s k = .refused .noBlock := by
  simp [onBlock, h]

theorem onBlock_next {k : Block → Answer} (h : onBlock s k = .next t) : ∃ b, s.block = some b ∧ k b = .next t := by
  unfold onBlock at h
  split at h
  · cases h
  · exact ⟨_, ‹_›, h⟩

theorem onBuffer_next {k : Block → Answer} {buf : List Sample} (h : onBuffer s buf k = .next t) :
    ∃ b, s.block = some b ∧ bufferFits s buf = true ∧ k b = .next t := by
  obtain ⟨b, hb, h⟩ := onBlock_next h
  split at h
  · exact ⟨b, hb, ‹_›, h⟩
  · cases h

theorem view_next {f : Block → Value} (h : view s f = .next t) :
    ∃ b, s.block = some b ∧ t = s.withResult (.ok (f b)) := by
  obtain ⟨b, hb, h⟩ := onBlock_next h
  exact ⟨b, hb, by simpa using h⟩

theorem update_next {f : Block → Block} (h : update s f = .next t) :
    ∃ b, s.block = some b ∧ t = (s.withBlock (some (f b))).withResult (.ok .unit) := by
  obtain ⟨b, hb, h⟩ := onBlock_next h
  exact ⟨b, hb, by simpa using h⟩

theorem runArm_next {flags : Timer → Timer} {d : Digits} (h : runArm s flags d = .next t) :
    ∃ b, s.block = some b ∧
      t = (s.withBlock (some (b.withTimer (timerArm flags d b.timer)))).withResult (.ok .unit) :=
  update_next h

/-- A buffer fits where it is no longer than any bound. -/
theorem bufferFits_iff {buf : List Sample} :
    bufferFits s buf = true ↔ ∀ n, s.maxBufferLen = some n → buf.length ≤ n := by
  unfold bufferFits
  cases s.maxBufferLen <;> simp

/-! ### The samples-per-bit a CONSTRUCT accepts is positive -/

theorem usableSpb_iff {p q : Int} : usableSpb p q = true ↔ q ≠ 0 ∧ 0 < (p : ℚ) / (q : ℚ) := by
  simp [usableSpb]

theorem usableSpb_pos {p q : Int} (h : usableSpb p q = true) : 0 < (p : ℚ) / (q : ℚ) := (usableSpb_iff.1 h).2

/-! ### Signals the pipeline makes are legal -/

theorem validate_ok_legal {p : Packet} {sig : Signal} (h : validate p = .ok sig) : sig.Legal := by
  unfold validate at h
  split at h
  · injection h with h
    simp only [Bool.and_eq_true] at *
    have hs : okStatus p = true := by tauto
    simpa [← h, signalOf, okStatus, isStatusCode] using hs
  · cases h

theorem pipe_ok_legal {spb : ℚ} {policy : ZeroPolicy} {buf : List Sample} {sig : Signal}
    (h : pipe spb policy buf = .ok sig) : sig.Legal := by
  unfold pipe decodeResolved decodeSuffix at h
  repeat' split at h
  all_goals first | exact validate_ok_legal h | cases h

/-! ### Every way exec and step answer a next state -/

/-- Step 2 of APPLY for each named status is that status's flags. -/
theorem flagsFor_named :
    flagsFor codeSpace = flagsSpace ∧ flagsFor codeS = flagsS ∧ flagsFor codeI = flagsI ∧ flagsFor codeL = flagsL ∧
      flagsFor codeR = flagsR ∧ flagsFor codeC = flagsC ∧ flagsFor codeA = flagsA := by
  refine ⟨?_, ?_, ?_, ?_, ?_, ?_, ?_⟩ <;> funext t <;> rfl

theorem execConstruct_next {spb : Option (Int × Int)} {policy : ZeroPolicy}
    (h : execConstruct spb policy s = .next t) :
    (∃ q : ℚ, 0 < q ∧ t = (s.withBlock (some (newBlock q policy))).withResult (.ok .unit)) ∨
      t = (s.withBlock none).withResult (.fail .configError) := by
  unfold execConstruct at h
  split at h
  · exact .inr (by simpa using h)
  · split at h
    · exact .inl ⟨_, usableSpb_pos ‹_›, by simpa using h⟩
    · exact .inr (by simpa using h)

theorem execProcessBuffer_next {buf : List Sample} (h : execProcessBuffer buf s = .next t) :
    ∃ b, s.block = some b ∧ bufferFits s buf = true ∧
      ((b.capturing = false ∧ t = s.withResult (.fail .ignored)) ∨
        (b.capturing = true ∧ ∃ f, pipe b.spb b.zeroPolicy buf = .error f ∧ t = s.withResult (.fail f)) ∨
        (b.capturing = true ∧ ∃ sig, pipe b.spb b.zeroPolicy buf = .ok sig ∧ accept s b sig = .next t)) := by
  obtain ⟨b, hb, hf, h⟩ := onBuffer_next h
  refine ⟨b, hb, hf, ?_⟩
  split at h
  · split at h
    · exact .inr (.inl ⟨‹_›, _, ‹_›, by simpa using h⟩)
    · exact .inr (.inr ⟨‹_›, _, ‹_›, h⟩)
  · rename_i hc
    exact .inl ⟨by simpa using hc, by simpa using h⟩

theorem execApply_next {c : Byte} {d : Digits} (h : execApply c d s = .next t) :
    c ∈ statusCodes ∧ ∃ b, s.block = some b ∧
      t = (s.withBlock (some (b.withTimer (applySignal ⟨c, d⟩ b.timer)))).withResult (.ok .unit) := by
  obtain ⟨b, hb, h⟩ := onBlock_next h
  split at h
  · rename_i hc
    exact ⟨by simpa [isStatusCode] using hc, b, hb, by simpa using h⟩
  · cases h

/-- The ways an instruction can end with a next state. -/
inductive Effect (s t : State) : Prop where
  /-- Only the result is new. -/
  | answered (r : Result) (h : t = s.withResult r)
  /-- A legal Signal is applied to the timer (an arm, or APPLY). -/
  | applied (b : Block) (sig : Signal) (hb : s.block = some b) (legal : sig.Legal)
      (h : t = (s.withBlock (some (b.withTimer (applySignal sig b.timer)))).withResult (.ok .unit))
  /-- A Signal is applied and delivered (PROCESS_BUFFER). -/
  | accepted (b : Block) (sig : Signal) (hb : s.block = some b) (hc : b.capturing = true) (legal : sig.Legal)
      (h : accept s b sig = .next t)
  /-- The capture mode is set (START, STOP). -/
  | toggled (b : Block) (on : Bool) (hb : s.block = some b)
      (h : t = (s.withBlock (some (b.withCapturing on))).withResult (.ok .unit))
  /-- A new block (CONSTRUCT). -/
  | constructed (q : ℚ) (policy : ZeroPolicy) (pos : 0 < q)
      (h : t = (s.withBlock (some (newBlock q policy))).withResult (.ok .unit))
  /-- CONFIG_ERROR: no block. -/
  | rejected (h : t = (s.withBlock none).withResult (.fail .configError))

theorem Effect.of_arm {c : Byte} {flags : Timer → Timer} {d : Digits} (hc : c ∈ statusCodes)
    (hf : flagsFor c = flags) (h : runArm s flags d = .next t) : Effect s t := by
  obtain ⟨b, hb, ht⟩ := runArm_next h
  exact .applied b ⟨c, d⟩ hb hc (by rw [ht, applySignal, hf])

theorem Effect.of_view {f : Block → Value} (h : view s f = .next t) : Effect s t :=
  let ⟨_, _, ht⟩ := view_next h
  .answered _ ht

theorem Effect.of_settle {r : Except Failure Value} (h : settle s r = .next t) : Effect s t := by
  obtain ⟨v, -, ht⟩ | ⟨f, -, ht⟩ := settle_next h
  · exact .answered _ ht
  · exact .answered _ ht

/-- What one instruction can do. -/
theorem exec_next {i : Instr} (h : exec i s = .next t) : Effect s t := by
  cases i with
  | statusSpace d => exact .of_arm (c := codeSpace) (by decide) flagsFor_named.1 h
  | statusS d => exact .of_arm (c := codeS) (by decide) flagsFor_named.2.1 h
  | statusI d => exact .of_arm (c := codeI) (by decide) flagsFor_named.2.2.1 h
  | statusL d => exact .of_arm (c := codeL) (by decide) flagsFor_named.2.2.2.1 h
  | statusR d => exact .of_arm (c := codeR) (by decide) flagsFor_named.2.2.2.2.1 h
  | statusC d => exact .of_arm (c := codeC) (by decide) flagsFor_named.2.2.2.2.2.1 h
  | statusA d => exact .of_arm (c := codeA) (by decide) flagsFor_named.2.2.2.2.2.2 h
  | construct spb policy =>
    obtain ⟨q, hq, ht⟩ | ht := execConstruct_next h
    · exact .constructed q policy hq ht
    · exact .rejected ht
  | start => exact let ⟨b, hb, ht⟩ := update_next h; .toggled b true hb ht
  | stop => exact let ⟨b, hb, ht⟩ := update_next h; .toggled b false hb ht
  | processBuffer buf =>
    obtain ⟨b, hb, -, ⟨-, ht⟩ | ⟨-, f, -, ht⟩ | ⟨hc, sig, hp, ht⟩⟩ := execProcessBuffer_next h
    · exact .answered _ ht
    · exact .answered _ ht
    · exact .accepted b sig hb hc (pipe_ok_legal hp) ht
  | decode buf => exact let ⟨_, _, _, h⟩ := onBuffer_next h; .of_settle h
  | apply c d => exact let ⟨hc, b, hb, ht⟩ := execApply_next h; .applied b ⟨c, d⟩ hb hc ht
  | getTimeStr => exact .of_view h
  | getTimeMs => exact .of_view h
  | isRunning => exact .of_view h
  | isReset => exact .of_view h
  | isLeftHand => exact .of_view h
  | isRightHand => exact .of_view h
  | getDigits => exact .of_view h
  | getState => exact .of_view h
  | sample buf => exact let ⟨_, _, _, h⟩ := onBuffer_next h; .of_settle (r := .ok _) h
  | resolve sym => exact let ⟨_, _, h⟩ := onBlock_next h; .of_settle h
  | sync rsym => exact let ⟨_, _, h⟩ := onBlock_next h; .of_settle h
  | runs seq => exact let ⟨_, _, h⟩ := onBlock_next h; .of_settle (r := .ok _) h
  | recover rs =>
    obtain ⟨b, hb, h⟩ := onBlock_next h
    split at h
    · exact .of_settle (r := .ok _) h
    · cases h
  | assemble bits => exact let ⟨_, _, h⟩ := onBlock_next h; .of_settle h
  | validate pkt => exact let ⟨_, _, h⟩ := onBlock_next h; .of_settle h

theorem fetchInstr_ok {r : Request} {i : Instr} :
    fetchInstr r = .ok i ↔ r.issue = .serial ∧ decode r.port r.bytes = .ok i := by
  unfold fetchInstr
  cases r.issue <;> simp
  cases decode r.port r.bytes <;> simp

/-- What one step can do: nothing, where nothing is pending, or the oldest request's instruction. -/
theorem step_next (h : step s = .next t) :
    (s.pending = [] ∧ t = s) ∨
      ∃ r rest i, s.pending = r :: rest ∧ fetchInstr r = .ok i ∧ exec i (s.withPending rest) = .next t := by
  unfold step at h
  split at h
  · exact .inl ⟨‹_›, by simpa [eq_comm] using h⟩
  · split at h
    · cases h
    · exact .inr ⟨_, _, _, ‹_›, ‹_›, h⟩

end Sys2Proof.Machine
end

