-- ==== Sys2Proof/Laws/PerInstr.lean ====
section
/-! SUPPORT. Laws/PerInstr.lean: one lemma per instruction, for statements over all instructions. -/

namespace Sys2Proof.Laws

/-- The byte of an instruction's row in opcode_table.json. -/
def tableByte : Instr → Byte
  | .statusSpace _ => 0x20
  | .statusS _ => 0x53
  | .statusI _ => 0x49
  | .statusL _ => 0x4C
  | .statusR _ => 0x52
  | .statusC _ => 0x43
  | .statusA _ => 0x41
  | .construct _ _ => 0x01
  | .start => 0x02
  | .stop => 0x03
  | .processBuffer _ => 0x04
  | .decode _ => 0x05
  | .apply _ _ => 0x06
  | .getTimeStr => 0x10
  | .getTimeMs => 0x11
  | .isRunning => 0x12
  | .isReset => 0x13
  | .isLeftHand => 0x14
  | .isRightHand => 0x15
  | .getDigits => 0x16
  | .getState => 0x17
  | .sample _ => 0x20
  | .resolve _ => 0x21
  | .sync _ => 0x22
  | .runs _ => 0x23
  | .recover _ => 0x24
  | .assemble _ => 0x25
  | .validate _ => 0x26

/-- The first byte an instruction is encoded with is its row's. -/
def OpcodeByte.Statement (i : Instr) : Prop := (encode i).head? = some (tableByte i)

theorem OpcodeByte.statusSpace (d : Digits) : OpcodeByte.Statement (.statusSpace d) := rfl
theorem OpcodeByte.statusS (d : Digits) : OpcodeByte.Statement (.statusS d) := rfl
theorem OpcodeByte.statusI (d : Digits) : OpcodeByte.Statement (.statusI d) := rfl
theorem OpcodeByte.statusL (d : Digits) : OpcodeByte.Statement (.statusL d) := rfl
theorem OpcodeByte.statusR (d : Digits) : OpcodeByte.Statement (.statusR d) := rfl
theorem OpcodeByte.statusC (d : Digits) : OpcodeByte.Statement (.statusC d) := rfl
theorem OpcodeByte.statusA (d : Digits) : OpcodeByte.Statement (.statusA d) := rfl
theorem OpcodeByte.construct (spb : Option (Int × Int)) (policy : ZeroPolicy) : OpcodeByte.Statement (.construct spb policy) := rfl
theorem OpcodeByte.start : OpcodeByte.Statement .start := rfl
theorem OpcodeByte.stop : OpcodeByte.Statement .stop := rfl
theorem OpcodeByte.processBuffer (buf : List Sample) : OpcodeByte.Statement (.processBuffer buf) := rfl
theorem OpcodeByte.decode (buf : List Sample) : OpcodeByte.Statement (.decode buf) := rfl
theorem OpcodeByte.apply (status : Byte) (d : Digits) : OpcodeByte.Statement (.apply status d) := rfl
theorem OpcodeByte.getTimeStr : OpcodeByte.Statement .getTimeStr := rfl
theorem OpcodeByte.getTimeMs : OpcodeByte.Statement .getTimeMs := rfl
theorem OpcodeByte.isRunning : OpcodeByte.Statement .isRunning := rfl
theorem OpcodeByte.isReset : OpcodeByte.Statement .isReset := rfl
theorem OpcodeByte.isLeftHand : OpcodeByte.Statement .isLeftHand := rfl
theorem OpcodeByte.isRightHand : OpcodeByte.Statement .isRightHand := rfl
theorem OpcodeByte.getDigits : OpcodeByte.Statement .getDigits := rfl
theorem OpcodeByte.getState : OpcodeByte.Statement .getState := rfl
theorem OpcodeByte.sample (buf : List Sample) : OpcodeByte.Statement (.sample buf) := rfl
theorem OpcodeByte.resolve (sym : List Symbol) : OpcodeByte.Statement (.resolve sym) := rfl
theorem OpcodeByte.sync (bits : List Bit) : OpcodeByte.Statement (.sync bits) := rfl
theorem OpcodeByte.runs (bits : List Bit) : OpcodeByte.Statement (.runs bits) := rfl
theorem OpcodeByte.recover (rs : List Run) : OpcodeByte.Statement (.recover rs) := rfl
theorem OpcodeByte.assemble (bits : List Bit) : OpcodeByte.Statement (.assemble bits) := rfl
theorem OpcodeByte.validate (pkt : Packet) : OpcodeByte.Statement (.validate pkt) := rfl

end Sys2Proof.Laws
end

