-- ==== Sys2Proof/Laws/Stages.lean ====
section
/-! SUPPORT. Laws/Stages.lean: the small lemmas of the stage functions, so that later proofs need not unfold them. -/

namespace Sys2Proof.Machine

/-! ### SAMPLE and RESOLVE -/

@[simp] theorem sampleBuffer_length (buf : List Sample) : (sampleBuffer buf).length = buf.length := by
  simp [sampleBuffer]

/-- The symbols depend on the classes of the samples alone. -/
theorem sampleBuffer_eq_of_classes {buf buf' : List Sample} (h : buf.map classify = buf'.map classify) :
    sampleBuffer buf = sampleBuffer buf' := by
  have key : ∀ l : List Sample, sampleBuffer l = (l.map classify).map fun c =>
      match c with
      | .neg => .bit true
      | .pos => .bit false
      | .zero => .indet := by
    intro l
    rw [List.map_map]
    rfl
  rw [key, key, h]

@[simp] theorem resolveAbort_bits (i : Nat) (bs : List Bit) : resolveAbort i (bs.map .bit) = .ok bs := by
  induction bs generalizing i with
  | nil => rfl
  | cons b bs ih => simp [resolveAbort, ih]

@[simp] theorem resolveHold_bits (prev : Bit) (bs : List Bit) : resolveHold prev (bs.map .bit) = bs := by
  induction bs generalizing prev with
  | nil => rfl
  | cons b bs ih => simp [resolveHold, ih]

/-! ### SYNC -/

/-- The arming comparison as a proposition. -/
theorem arms_iff (spb : ℚ) (n : Nat) : arms spb n = true ↔ 9 * spb < (n : ℚ) := by
  unfold arms armingPeriods
  rw [decide_eq_true_iff]
  push_cast
  rfl

theorem arms_mono {spb : ℚ} {m n : Nat} (h : m ≤ n) (hm : arms spb m = true) : arms spb n = true := by
  rw [arms_iff] at *
  exact lt_of_lt_of_le hm (by exact_mod_cast h)

/-- Starting the scan one index later moves its answer by one. -/
theorem syncScan_succ (spb : ℚ) (rsym : List Bit) (i count : Nat) (armed : Bool) :
    syncScan spb (i + 1) count armed rsym = (syncScan spb i count armed rsym).map (· + 1) := by
  induction rsym generalizing i count armed with
  | nil => rfl
  | cons b rsym ih => cases b <;> cases armed <;> simp [syncScan, ih]

/-! ### RUNS -/

theorem consRun_len_pos (b : Bit) (rs : List Run) (h : ∀ r ∈ rs, 1 ≤ r.len) : ∀ r ∈ consRun b rs, 1 ≤ r.len := by
  unfold consRun
  split
  · simp
  · split <;> simp_all

theorem consRun_expand (b : Bit) (rs : List Run) :
    ((consRun b rs).flatMap fun r => List.replicate r.len r.sym) =
      b :: rs.flatMap fun r => List.replicate r.len r.sym := by
  unfold consRun
  split
  · simp
  · split
    · rename_i r rest hr
      subst hr
      simp [List.replicate_succ]
    · simp

theorem consRun_head (b : Bit) (rs : List Run) : ∃ n rest, consRun b rs = ⟨b, n + 1⟩ :: rest := by
  unfold consRun
  split
  · exact ⟨0, [], rfl⟩
  · split
    · exact ⟨_, _, rfl⟩
    · exact ⟨0, _, rfl⟩

/-! ### RECOVER -/

@[simp] theorem recoverBits_nil (spb : ℚ) : recoverBits spb [] = [] := rfl

@[simp] theorem recoverBits_cons (spb : ℚ) (r : Run) (rs : List Run) :
    recoverBits spb (r :: rs) = List.replicate (bitPeriods spb r.len) r.sym ++ recoverBits spb rs := rfl

/-! ### VALIDATE -/

theorem digitValue_val {b : Byte} (h : isDigitByte b = true) : (digitValue b).val + 48 = b.toNat := by
  rw [isDigitByte, decide_eq_true_iff] at h
  obtain ⟨h1, h2⟩ := h
  unfold digitOffset at h1 h2
  simp only [digitValue, digitOffset, Fin.ofNat]
  omega

/-! ### The one code each stage can raise (45_host_ops.md R224) -/

theorem resolveAbort_error {i : Nat} {sym : List Symbol} {f : Failure} (h : resolveAbort i sym = .error f) :
    ∃ j, f = .indeterminate j := by
  induction sym generalizing i with
  | nil => simp [resolveAbort] at h
  | cons x xs ih =>
    cases x with
    | indet => exact ⟨i, by simpa [resolveAbort] using h.symm⟩
    | bit b =>
      cases hr : resolveAbort (i + 1) xs with
      | ok v => simp [resolveAbort, hr] at h
      | error g =>
        obtain rfl : g = f := by simpa [resolveAbort, hr] using h
        exact ih hr

theorem resolve_error {policy : ZeroPolicy} {sym : List Symbol} {f : Failure} (h : resolve policy sym = .error f) :
    ∃ j, f = .indeterminate j := by
  cases policy
  · exact resolveAbort_error h
  · simp [resolve] at h

theorem sync_error {spb : ℚ} {rsym : List Bit} {f : Failure} (h : sync spb rsym = .error f) : f = .syncMiss := by
  unfold sync at h
  split at h <;> simp_all

theorem assemble_error {bits : List Bit} {f : Failure} (h : assemble bits = .error f) :
    f = .incomplete bits.length := by
  unfold assemble at h
  split at h <;> simp_all

theorem validate_error {p : Packet} {f : Failure} (h : validate p = .error f) : f = .invalid := by
  unfold validate at h
  split at h <;> simp_all

end Sys2Proof.Machine
end

