-- ==== Sys2Proof/Tests/Slice0.lean ====
section
/-! SUPPORT. Tests/Slice0.lean: the model's own tests. Expected values are the spec's (the vector, rule or program named in
each comment); the byte format of operands past the selector is the model's (log 6). The last part holds one witness for
every statement of Certificates/Slice0/Obligations.lean that has hypotheses. -/

namespace Sys2Proof.Tests

open Sys2Proof.Machine

/-! ### Helpers -/

def digits (a b c d e : Fin 10) : Digits := ⟨a, b, c, d, e⟩

/-- The reset state's timer, T0 of 95_test_vectors.md 2.6. -/
def timer0 : Timer := ⟨false, true, false, false, digits 0 0 0 0 0⟩

/-- The timer Ta of 95_test_vectors.md 2.6. -/
def timerA : Timer := ⟨true, false, true, false, digits 9 9 9 9 9⟩

/-- A block of 4 samples a bit that is capturing. -/
def block4 (policy : ZeroPolicy) (t : Timer) : Block := ⟨4, policy, true, t⟩

/-- A state with that block and nothing else. -/
def state4 (policy : ZeroPolicy) (t : Timer) : State := { State.reset with block := some (block4 policy t) }

/-- A state without a block. -/
def noBlockState : State := { State.reset with block := none }

/-- The timer after an instruction. -/
def timerAfter (i : Instr) (t : Timer) : Option Timer := (blockAfter (exec i (state4 .abort t))).map Block.timer

/-- The result of an instruction on the timer Ta. -/
def resultOn (i : Instr) (policy : ZeroPolicy) : Option Result := resultOf (exec i (state4 policy timerA))

/-- The buffer B1 of program P1. -/
def bufferP1 : List Sample := synth (lineOf (pktOf codeI (digits 1 3 0 2 8)) 10 2) 4 0

/-- The packet of program P1. -/
def packetP1 : Packet := ⟨0x49, 0x31, 0x33, 0x30, 0x32, 0x38, 0x4E, 0x0A, 0x0D⟩

/-- The bit periods of the line of PKT('I',[1,3,0,2,8]) with `post` idle periods after it (V-ASM1, V-ASM2). -/
def streamP1 (post : Nat) : List Bit := framePeriods packetP1 ++ List.replicate post true

/-! ### WellFormed: an ill-formed term for each check -/

theorem test_wf_apply_status : (Instr.apply 0x69 (digits 0 0 0 0 0)).wellFormed = false := by decide

theorem test_wf_apply_legal : (Instr.apply 0x49 (digits 0 0 0 0 0)).wellFormed = true := by decide

theorem test_wf_run_of_length_zero : (Instr.recover [⟨true, 4⟩, ⟨false, 0⟩]).wellFormed = false := by decide

theorem test_wf_runs_legal : (Instr.recover [⟨true, 4⟩, ⟨true, 1⟩]).wellFormed = true := by decide

theorem test_wf_policy_without_spb : (Instr.construct none .hold).wellFormed = false := by decide

theorem test_wf_absent_spb : (Instr.construct none .abort).wellFormed = true := by decide

/-! ### Decoding: a word of every row, written out from 30_encoding.md R74, R79, R84 -/

theorem test_decode_statusSpace : decode .signal [0x20, 0, 0, 1, 2, 3] = .ok (.statusSpace (digits 0 0 1 2 3)) := by rfl

theorem test_decode_statusS : decode .signal [0x53, 0, 1, 2, 3, 4] = .ok (.statusS (digits 0 1 2 3 4)) := by rfl

theorem test_decode_statusI : decode .signal [0x49, 1, 3, 0, 2, 8] = .ok (.statusI (digits 1 3 0 2 8)) := by rfl

theorem test_decode_statusL : decode .signal [0x4C, 1, 2, 3, 4, 5] = .ok (.statusL (digits 1 2 3 4 5)) := by rfl

theorem test_decode_statusR : decode .signal [0x52, 9, 9, 9, 9, 9] = .ok (.statusR (digits 9 9 9 9 9)) := by rfl

theorem test_decode_statusC : decode .signal [0x43, 0, 0, 4, 5, 6] = .ok (.statusC (digits 0 0 4 5 6)) := by rfl

theorem test_decode_statusA : decode .signal [0x41, 1, 1, 1, 1, 1] = .ok (.statusA (digits 1 1 1 1 1)) := by rfl

/- CONSTRUCT spb=4/1: the integer 4 is the natural 8, 1 is 2 (log 6). -/
theorem test_decode_construct : decode .hostOp [0x01, 8, 2, 1] = .ok (.construct (some (4, 1)) .hold) := by rfl

/- CONSTRUCT spb=-4/1: -4 is the natural 7. The policy is ABORT if none is given (10_state.md R22). -/
theorem test_decode_construct_negative : decode .hostOp [0x01, 7, 2] = .ok (.construct (some (-4, 1)) .abort) := by rfl

/- spb=44100/1200: 88200 is 8, 49, 5 in base 128 (least first), 2400 is 96, 18. -/
theorem test_decode_construct_44100 :
    decode .hostOp [0x01, 0x88, 0xB1, 0x05, 0xE0, 0x12, 0] = .ok (.construct (some (44100, 1200)) .abort) := by
  decide +kernel

theorem test_decode_construct_absent : decode .hostOp [0x01] = .ok (.construct none .abort) := by rfl

theorem test_decode_start : decode .hostOp [0x02] = .ok .start := by rfl

theorem test_decode_stop : decode .hostOp [0x03] = .ok .stop := by rfl

/- One finite sample -1/2: tag 0, the integer -1 (natural 1), the denominator 2; then NaN. -/
theorem test_decode_processBuffer :
    decode .hostOp [0x04, 2, 0, 1, 2, 4] = .ok (.processBuffer [.finite (-1 / 2), .nan]) := by
  decide +kernel

theorem test_decode_decode : decode .hostOp [0x05, 3, 1, 2, 3] = .ok (.decode [.negZero, .posInf, .negInf]) := by rfl

/- P3: `APPLY 'I' [0,0,0,0,0]` is 06 49 00 00 00 00 00. -/
theorem test_decode_apply : decode .hostOp [0x06, 0x49, 0, 0, 0, 0, 0] = .ok (.apply 0x49 (digits 0 0 0 0 0)) := by rfl

theorem test_decode_getTimeStr : decode .hostOp [0x10] = .ok .getTimeStr := by rfl

theorem test_decode_getTimeMs : decode .hostOp [0x11] = .ok .getTimeMs := by rfl

theorem test_decode_isRunning : decode .hostOp [0x12] = .ok .isRunning := by rfl

theorem test_decode_isReset : decode .hostOp [0x13] = .ok .isReset := by rfl

theorem test_decode_isLeftHand : decode .hostOp [0x14] = .ok .isLeftHand := by rfl

theorem test_decode_isRightHand : decode .hostOp [0x15] = .ok .isRightHand := by rfl

theorem test_decode_getDigits : decode .hostOp [0x16] = .ok .getDigits := by rfl

theorem test_decode_getState : decode .hostOp [0x17] = .ok .getState := by rfl

theorem test_decode_sample : decode .hostOp [0x20, 1, 4] = .ok (.sample [.nan]) := by rfl

/- X is the value 2 (30_encoding.md R80). -/
theorem test_decode_resolve : decode .hostOp [0x21, 3, 1, 2, 0] = .ok (.resolve [.bit true, .indet, .bit false]) := by rfl

theorem test_decode_sync : decode .hostOp [0x22, 2, 1, 0] = .ok (.sync [true, false]) := by rfl

theorem test_decode_runs : decode .hostOp [0x23, 3, 0, 0, 1] = .ok (.runs [false, false, true]) := by rfl

theorem test_decode_recover : decode .hostOp [0x24, 2, 0, 4, 1, 10] = .ok (.recover [⟨false, 4⟩, ⟨true, 10⟩]) := by rfl

theorem test_decode_assemble : decode .hostOp [0x25, 1, 1] = .ok (.assemble [true]) := by rfl

theorem test_decode_validate :
    decode .hostOp [0x26, 0x49, 0x31, 0x33, 0x30, 0x32, 0x38, 0x4E, 0x0A, 0x0D] = .ok (.validate packetP1) := by rfl

/- Unassigned selectors, bad operands and trailing bytes are rejected by name (30_encoding.md R82). -/
theorem test_decode_unassigned : decode .hostOp [0x07] = .error .unassignedSelector := by rfl

theorem test_decode_sync_x : decode .hostOp [0x22, 1, 2] = .error .illegalOperand := by rfl

theorem test_decode_digit_ten : decode .signal [0x49, 0, 0, 0, 0, 10] = .error .illegalOperand := by rfl

theorem test_decode_trailing : decode .hostOp [0x02, 0] = .error .trailingBytes := by rfl

theorem test_decode_truncated : decode .hostOp [0x06, 0x49, 0] = .error .truncated := by rfl

/- The byte 0x20 is a row of both formats; as a table word it is SAMPLE (log 8). -/
theorem test_table_0x20 : decodeTableWord 8 0x20 = some (.sample []) := by rfl

theorem test_table_0x53 : decodeTableWord 8 0x53 = some (.statusS (digits 0 0 0 0 0)) := by rfl

/-! ### Instructions: the spec's own vectors -/

/- V-FSM1. -/
theorem test_statusSpace : timerAfter (.statusSpace (digits 0 0 1 2 3)) timer0
    = some ⟨true, false, false, false, digits 0 0 1 2 3⟩ := by decide

/- V-FSM2. -/
theorem test_statusS : timerAfter (.statusS (digits 0 1 2 3 4)) timerA
    = some ⟨false, false, false, false, digits 0 1 2 3 4⟩ := by decide

/- V-FSM3. -/
theorem test_statusI : timerAfter (.statusI (digits 1 3 0 2 8)) timerA
    = some ⟨false, true, false, false, digits 1 3 0 2 8⟩ := by decide

/- V-FSM4. -/
theorem test_statusL : timerAfter (.statusL (digits 1 2 3 4 5)) timer0
    = some ⟨false, true, true, false, digits 1 2 3 4 5⟩ := by decide

/- V-FSM5. -/
theorem test_statusR : timerAfter (.statusR (digits 9 9 9 9 9)) timerA
    = some ⟨true, false, false, true, digits 9 9 9 9 9⟩ := by decide

/- V-FSM6 and V-FSM7. -/
theorem test_statusC : timerAfter (.statusC (digits 0 0 0 0 0)) timerA
    = some ⟨false, false, true, true, digits 0 0 0 0 0⟩ := by decide

theorem test_statusC_keeps_reset : timerAfter (.statusC (digits 0 0 0 0 0)) timer0
    = some ⟨false, true, true, true, digits 0 0 0 0 0⟩ := by decide

/- V-FSM8. -/
theorem test_statusA : timerAfter (.statusA (digits 1 1 1 1 1)) timerA
    = some ⟨true, false, false, false, digits 1 1 1 1 1⟩ := by decide

/- V-FSM3 through APPLY, and a refused status (30_encoding.md R82). -/
theorem test_apply : timerAfter (.apply 0x49 (digits 1 3 0 2 8)) timerA
    = some ⟨false, true, false, false, digits 1 3 0 2 8⟩ := by decide

theorem test_apply_illegal : exec (.apply 0x69 (digits 0 0 0 0 0)) (state4 .abort timerA) = .refused .illegalSignal := by rfl

/- V-HOST3 and V-HOST1. -/
theorem test_construct : (blockAfter (exec (.construct (some (44100, 1200)) .abort) noBlockState)).map Block.spb
    = some (147 / 4) := by decide +kernel

/- Both integers negative: p/q > 0 is accepted (60_exceptions.md R253, 90_conflicts.md C8). -/
theorem test_construct_negative_pair : (blockAfter (exec (.construct (some (-4, -1)) .abort) noBlockState)).map Block.spb
    = some 4 := by
  decide +kernel

theorem test_construct_zero : resultOf (exec (.construct (some (0, 1)) .abort) noBlockState)
    = some (.fail .configError) := by decide +kernel

/- V-HOST9; 45_host_ops.md R222. -/
theorem test_start : (blockAfter (exec .start State.reset)).map Block.capturing = some true := by decide

theorem test_stop : (blockAfter (exec .stop (state4 .abort timerA))).map Block.capturing = some false := by decide

/- P1, and V-HOST7. -/
theorem test_processBuffer : resultOn (.processBuffer bufferP1) .abort = some (.ok (.emission
    ⟨⟨0x49, digits 1 3 0 2 8⟩, ⟨false, true, false, false, digits 1 3 0 2 8⟩⟩)) := by decide +kernel

theorem test_processBuffer_silence :
    resultOn (.processBuffer (List.replicate 50 (.finite 0))) .hold = some (.fail .syncMiss) := by decide +kernel

/- P4: sample 44 is zero. V-HZ3: one trailing sample. -/
theorem test_decode_hold :
    resultOn (.decode (bufferP1.set 44 (.finite 0))) .hold = some (.ok (.signal ⟨0x49, digits 1 3 0 2 8⟩)) := by
  decide +kernel

theorem test_decode_incomplete :
    resultOn (.decode ((bufferP1.drop 3).take 398)) .abort = some (.fail (.incomplete 90)) := by decide +kernel

/- V-VIEW2 on the digits [1,3,0,2,8]; V-VIEW5 on [9,9,9,9,9]. -/
theorem test_getTimeStr : timeString (digits 1 3 0 2 8) = [0x31, 0x3A, 0x33, 0x30, 0x2E, 0x32, 0x38] := by decide

theorem test_getTimeStr_max :
    resultOn .getTimeStr .abort = some (.ok (.bytes [0x39, 0x3A, 0x39, 0x39, 0x2E, 0x39, 0x39])) := by decide

theorem test_getTimeMs : timeMs (digits 1 3 0 2 8) = 90280 := by decide

theorem test_getTimeMs_max : resultOn .getTimeMs .abort = some (.ok (.nat 639990)) := by decide

/- Views of Ta = (true, false, true, false, [9,9,9,9,9]). -/
theorem test_isRunning : resultOn .isRunning .abort = some (.ok (.bool true)) := by decide

theorem test_isReset : resultOn .isReset .abort = some (.ok (.bool false)) := by decide

theorem test_isLeftHand : resultOn .isLeftHand .abort = some (.ok (.bool true)) := by decide

theorem test_isRightHand : resultOn .isRightHand .abort = some (.ok (.bool false)) := by decide

theorem test_getDigits : resultOn .getDigits .abort = some (.ok (.digits (digits 9 9 9 9 9))) := by decide

theorem test_getState : resultOn .getState .abort = some (.ok (.timer timerA)) := by decide

/- V-SMP1 and V-SMP5. -/
theorem test_sample : resultOn (.sample [.finite (-1 / 2), .finite 0, .finite (1 / 4), .finite (-1)]) .abort
    = some (.ok (.symbols [.bit true, .indet, .bit false, .bit true])) := by decide +kernel

theorem test_sample_special : resultOn (.sample [.posInf, .negInf, .negZero, .nan]) .abort
    = some (.ok (.symbols [.bit false, .bit true, .indet, .indet])) := by decide

/- 40_sampler_sync.md R103's example; V-SMP6. -/
theorem test_resolve_abort : resultOn (.resolve [.bit true, .bit true, .indet, .bit false]) .abort
    = some (.fail (.indeterminate 2)) := by decide

theorem test_resolve_hold : resultOn (.resolve [.indet, .bit false, .indet, .indet, .bit true, .indet]) .hold
    = some (.ok (.bits [true, false, false, false, true, true])) := by decide

/- V-SYN1 and V-SYN2. -/
theorem test_sync_miss : resultOn (.sync (List.replicate 36 true ++ [false])) .abort = some (.fail .syncMiss) := by
  decide +kernel

theorem test_sync : resultOn (.sync (List.replicate 37 true ++ [false])) .abort = some (.ok (.index 37)) := by
  decide +kernel

/- V-RUN1. -/
theorem test_runs :
    resultOn (.runs (List.replicate 4 false ++ List.replicate 4 true ++ List.replicate 8 false)) .abort
      = some (.ok (.runs [⟨false, 4⟩, ⟨true, 4⟩, ⟨false, 8⟩])) := by decide

/- V-REC1 and V-REC4. -/
theorem test_recover : resultOn (.recover [⟨false, 4⟩, ⟨true, 4⟩, ⟨false, 8⟩, ⟨true, 6⟩, ⟨false, 5⟩]) .abort
    = some (.ok (.bits [false, true, false, false, true, true, false])) := by decide +kernel

theorem test_recover_glitch : resultOn (.recover [⟨true, 10⟩, ⟨false, 1⟩, ⟨true, 10⟩]) .abort
    = some (.ok (.bits (List.replicate 6 true))) := by decide +kernel

/- V-ASM1 and V-ASM2. -/
theorem test_assemble_incomplete : resultOn (.assemble (streamP1 0)) .abort = some (.fail (.incomplete 90)) := by decide

theorem test_assemble : resultOn (.assemble (streamP1 1)) .abort = some (.ok (.packet packetP1)) := by decide +kernel

/- V-VAL0 and V-VAL3. -/
theorem test_validate : resultOn (.validate packetP1) .abort = some (.ok (.signal ⟨0x49, digits 1 3 0 2 8⟩)) := by decide

theorem test_validate_checksum :
    resultOn (.validate { packetP1 with checksum := 0x4F }) .abort = some (.fail .invalid) := by decide

/- 30_encoding.md R82: no operation before CONSTRUCT. -/
theorem test_no_block : exec .start noBlockState = .refused .noBlock := by rfl

/- The table word of the first instruction after reset runs (log 14). -/
theorem test_fetch_start : resultOf (step (State.reset.withFetchWord 8 0x02)) = some (.ok .unit) := by decide

/-! ### Witnesses: a state and operands that meet every hypothesis of a statement together -/

/-- The block of `demo`. -/
def demoBlock : Block := block4 .abort timerA

/-- A state with a capturing block under ABORT and a bound on buffers. -/
def demo : State := { state4 .abort timerA with maxBufferLen := some 3 }

/-- The same under HOLD. -/
def demoHold : State := { state4 .hold timerA with maxBufferLen := some 3 }

theorem demo_block : demo.block = some demoBlock := rfl

theorem demoHold_block : demoHold.block = some (block4 .hold timerA) := rfl

theorem witness_StatusSpaceSetsRunning :
    demo.block = some demoBlock :=
  rfl

theorem witness_StatusSStopsWithoutReset :
    demo.block = some demoBlock :=
  rfl

theorem witness_StatusISetsReset :
    demo.block = some demoBlock :=
  rfl

theorem witness_StatusLSetsLeftHandOnly :
    demo.block = some demoBlock :=
  rfl

theorem witness_StatusRSetsRightHandOnly :
    demo.block = some demoBlock :=
  rfl

theorem witness_StatusCSetsBothHandsAndStops :
    demo.block = some demoBlock :=
  rfl

theorem witness_StatusAClearsHandsOnly :
    demo.block = some demoBlock ∧ (0x42 : Byte) ∉ statusCodes :=
  ⟨rfl, by decide⟩

theorem witness_ApplyTransitionByStatus :
    demo.block = some demoBlock ∧ (0x20 : Byte) ∈ statusCodes ∧ (0x53 : Byte) ∈ statusCodes :=
  ⟨rfl, by decide, by decide⟩

theorem witness_ApplyRefusesIllegalSignals :
    demo.block = some demoBlock ∧ (0x1F : Byte) ∉ statusCodes ∧ 10 ≤ (10 : Byte).toNat :=
  ⟨rfl, by decide, by decide⟩

theorem witness_ApplyLaws_idempotence :
    ∃ t, exec (.apply 0x4C (digits 1 2 3 4 5)) demo = .next t :=
  ⟨_, rfl⟩

theorem witness_ApplyLaws_isolation :
    demo.block = some demoBlock ∧ ∃ t u, exec (.apply 0x4C (digits 1 2 3 4 5)) demo = .next t ∧
      exec (.apply 0x52 (digits 5 4 3 2 1)) t = .next u :=
  ⟨rfl, _, _, rfl, rfl⟩

theorem witness_ApplyLaws_dependence :
    demo.block = some demoBlock ∧ demoHold.block = some (block4 .hold timerA) ∧
      demoBlock.timer.running = (block4 .hold timerA).timer.running ∧
      demoBlock.timer.reset = (block4 .hold timerA).timer.reset ∧
      (∃ t, exec (.apply 0x41 (digits 1 2 3 4 5)) demo = .next t) ∧ ∃ t, exec (.apply 0x41 (digits 1 2 3 4 5)) demoHold = .next t :=
  ⟨rfl, rfl, rfl, rfl, ⟨_, rfl⟩, ⟨_, rfl⟩⟩

theorem witness_ApplyLaws_total :
    demo.block = some demoBlock ∧ (0x43 : Byte) ∈ statusCodes :=
  ⟨rfl, by decide⟩

theorem witness_ConstructMakesResetState :
    (1 : Int) ≠ 0 ∧ 0 < ((1 : Int) : ℚ) / ((1 : Int) : ℚ) :=
  by norm_num

theorem witness_ConstructConfigError :
    ((0 : Int) = 0 ∨ ((1 : Int) : ℚ) / ((0 : Int) : ℚ) ≤ 0) ∧ ((1 : Int) = 0 ∨ ((0 : Int) : ℚ) / ((1 : Int) : ℚ) ≤ 0) ∧
      (0 : ℚ) < 1 / 1000 ∧ (-1000 : Int) ≠ 0 ∧ ((-1 : Int) : ℚ) = 1 / 1000 * ((-1000 : Int) : ℚ) ∧
      noBlockState.block = none ∧ isConstruct .start = false :=
  ⟨.inl rfl, .inr (by norm_num), by norm_num, by decide, by norm_num, rfl, rfl⟩

theorem witness_ConstructBothNegativeIsAccepted :
    (-1 : Int) < 0 ∧ (-1 : Int) < 0 :=
  by decide

theorem witness_StartOnlySetsCapturing :
    State.reset.block ≠ none ∧ demo.block = some demoBlock ∧ demoBlock.capturing = true :=
  ⟨by decide, rfl, rfl⟩

theorem witness_StopOnlyClearsCapturing :
    (∃ b, State.reset.block = some b ∧ b.capturing = false) ∧ ∃ t, exec .stop demo = .next t ∧ bufferFits t [.nan, .nan, .nan] = true :=
  ⟨⟨_, rfl, rfl⟩, _, rfl, rfl⟩

theorem witness_ProcessBufferOutcomes_ignored :
    ∃ b, State.reset.block = some b ∧ bufferFits State.reset [.nan] = true ∧ b.capturing = false :=
  ⟨_, rfl, rfl, rfl⟩

theorem witness_ProcessBufferOutcomes_failure :
    demo.block = some demoBlock ∧ bufferFits demo [.nan, .nan, .nan] = true ∧ demoBlock.capturing = true ∧
      pipe demoBlock.spb demoBlock.zeroPolicy [.nan, .nan, .nan] = .error (.indeterminate 0) :=
  ⟨rfl, rfl, rfl, rfl⟩

theorem witness_ProcessBufferOutcomes_signal :
    (state4 .abort timerA).block = some demoBlock ∧ bufferFits (state4 .abort timerA) bufferP1 = true ∧
      demoBlock.capturing = true ∧ (pipe 4 .abort bufferP1).toOption = some ⟨0x49, digits 1 3 0 2 8⟩ :=
  ⟨rfl, rfl, rfl, by decide +kernel⟩

theorem witness_FailedBufferWritesNothing :
    ∃ t, exec (.processBuffer [.nan]) demo = .next t ∧ t.result = .fail (.indeterminate 0) :=
  ⟨_, rfl, rfl⟩

theorem witness_FailedBufferWritesNothing_signal :
    (state4 .abort timerA).block = some demoBlock ∧
      blockAfter (exec (.processBuffer bufferP1) (state4 .abort timerA)) ≠ (state4 .abort timerA).block :=
  ⟨rfl, by decide +kernel⟩

theorem witness_DecodeReturnsPipelineResult :
    demo.block = some demoBlock ∧ bufferFits demo [] = true ∧
      pipe demoBlock.spb demoBlock.zeroPolicy [] = .error .syncMiss :=
  ⟨rfl, rfl, rfl⟩

theorem witness_DecodeReturnsPipelineResult_signal :
    (state4 .abort timerA).block = some demoBlock ∧ bufferFits (state4 .abort timerA) bufferP1 = true ∧
      (pipe demoBlock.spb demoBlock.zeroPolicy bufferP1).toOption = some ⟨0x49, digits 1 3 0 2 8⟩ :=
  ⟨rfl, rfl, by decide +kernel⟩

theorem witness_LongBuffersAreRefused :
    demo.block = some demoBlock ∧ demo.maxBufferLen = some 3 ∧ 3 < [Sample.nan, .nan, .nan, .nan].length :=
  ⟨rfl, rfl, by decide⟩

theorem witness_TimeStringView :
    demo.block = some demoBlock :=
  rfl

theorem witness_TimeMsView :
    demo.block = some demoBlock :=
  rfl

theorem witness_FlagViews :
    demo.block = some demoBlock :=
  rfl

theorem witness_DigitsAndStateViews :
    demo.block = some demoBlock :=
  rfl

theorem witness_SampleClassifiesBySign :
    demo.block = some demoBlock ∧ bufferFits demo [.negZero, .posInf, .negInf] = true :=
  ⟨rfl, rfl⟩

theorem witness_SampleClassifiesBySign_finite :
    [Sample.finite (-1), .finite 0, .finite 1][0]? = some (.finite (-1)) ∧ (-1 : ℚ) < 0 ∧
      [Sample.finite (-1), .finite 0, .finite 1][2]? = some (.finite 1) ∧ (0 : ℚ) < 1 :=
  ⟨rfl, by norm_num, rfl, by norm_num⟩

theorem witness_OnlySignsMatter :
    [Sample.finite 0, .posInf].map classify = [Sample.nan, .finite 3].map classify :=
  by decide +kernel

theorem witness_ResolveAbortStopsAtFirstX :
    demo.block = some demoBlock ∧ demoBlock.zeroPolicy = .abort ∧ [Symbol.indet][0]? = some .indet ∧
      ∀ j, j < 0 → [Symbol.indet][j]? ≠ some .indet :=
  ⟨rfl, rfl, rfl, by intro j h; omega⟩

theorem witness_ResolveHoldContinues :
    demoHold.block = some (block4 .hold timerA) ∧ (block4 .hold timerA).zeroPolicy = .hold :=
  ⟨rfl, rfl⟩

theorem witness_SyncFindsLeastSyncPoint :
    demo.block = some demoBlock ∧ 0 < demoBlock.spb ∧ SyncPoint demoBlock.spb (List.replicate 37 true ++ [false]) 37 ∧
      ∀ j, j < 37 → ¬SyncPoint demoBlock.spb (List.replicate 37 true ++ [false]) j := by
  have h4 : demoBlock.spb = 4 := rfl
  refine ⟨rfl, by rw [h4]; norm_num, ⟨by decide, 37, by rw [h4]; norm_num, by omega, ?_, .inl rfl⟩, ?_⟩
  · intro j _ hj
    rw [List.getElem?_append_left (by rwa [List.length_replicate]), List.getElem?_replicate, if_pos hj]
  · rintro j hj ⟨h, -⟩
    rw [List.getElem?_append_left (by rwa [List.length_replicate]), List.getElem?_replicate, if_pos hj] at h
    cases h

theorem witness_SyncFindsLeastSyncPoint_miss :
    demo.block = some demoBlock ∧ 0 < demoBlock.spb ∧ ∀ k, ¬SyncPoint demoBlock.spb [] k := by
  refine ⟨rfl, by decide +kernel, ?_⟩
  rintro k ⟨h, -⟩
  simp at h

theorem witness_ArmingIsStrictAndExact :
    ((36 : Nat) : ℚ) = 9 * 4 :=
  by norm_num

theorem witness_GlitchRestartsArming :
    arms 4 36 = false ∧ arms 4 37 = true :=
  ⟨by decide +kernel, by decide +kernel⟩

theorem witness_RunsAreLossless :
    demo.block = some demoBlock ∧ (∀ r ∈ [(⟨true, 1⟩ : Run), ⟨false, 2⟩], 1 ≤ r.len) ∧
      [(⟨true, 1⟩ : Run), ⟨false, 2⟩].IsChain (fun r r' => r.sym ≠ r'.sym) ∧
      [(⟨true, 1⟩ : Run), ⟨false, 2⟩].flatMap (fun r => List.replicate r.len r.sym) = [true, false, false] :=
  ⟨rfl, by decide, by simp, rfl⟩

theorem witness_RecoverExpandsRuns :
    demo.block = some demoBlock ∧ (∀ r ∈ [(⟨true, 1⟩ : Run)], 1 ≤ r.len) ∧ ∃ r ∈ [(⟨true, 0⟩ : Run)], r.len = 0 :=
  ⟨rfl, by decide, by decide⟩

theorem witness_RoundingInIntegers :
    0 < (147 : Nat) ∧ 0 < (4 : Nat) ∧ (0 : ℚ) < 4 ∧ 1 ≤ (1 : Nat) ∧ ((2 : Nat) : ℚ) / 4 = ((0 : Nat) : ℚ) + 1 / 2 :=
  by norm_num

theorem witness_GlitchRunsVanishUnmerged :
    (0 : ℚ) < 4 ∧ (((⟨false, 1⟩ : Run).len : Nat) : ℚ) < 4 / 2 :=
  by norm_num

theorem witness_AssembleReadsLsbFirst :
    demo.block = some demoBlock ∧ (List.replicate 90 true).length < 91 ∧ 91 ≤ (List.replicate 91 true).length :=
  ⟨rfl, by decide, by decide⟩

theorem witness_AssembleIgnoresFramingBits :
    91 ≤ (streamP1 1).length ∧ 91 ≤ (true :: (streamP1 2).drop 1).length ∧
      ∀ i k : Nat, i < 9 → k < 8 → (streamP1 1)[10 * i + k + 1]? = (true :: (streamP1 2).drop 1)[10 * i + k + 1]? := by
  refine ⟨by decide, by decide, ?_⟩
  have h : ∀ i : Fin 9, ∀ k : Fin 8,
      (streamP1 1)[10 * i.val + k.val + 1]? = (true :: (streamP1 2).drop 1)[10 * i.val + k.val + 1]? := by decide +kernel
  exact fun i k hi hk => h ⟨i, hi⟩ ⟨k, hk⟩

theorem witness_ValidateRules :
    demo.block = some demoBlock :=
  rfl

theorem witness_PacketRoundTrip :
    demo.block = some demoBlock ∧ (0x41 : Byte) ∈ statusCodes ∧ 5 + 2 + 3 + 4 + 1 = 1 + 2 + 3 + 4 + 5 :=
  ⟨rfl, by decide, rfl⟩

theorem witness_EarlierCauseWins :
    (∃ b, State.reset.block = some b ∧ b.capturing = false) ∧ demo.block = some demoBlock ∧
      bufferFits demo [.posInf, .nan] = true ∧ [Sample.posInf, .nan][1]? = some .nan ∧ classify .nan = .zero ∧
      (∀ j y, j < 1 → [Sample.posInf, .nan][j]? = some y → classify y ≠ .zero) ∧ demoBlock.capturing = true ∧
      demoBlock.zeroPolicy = .abort := by
  refine ⟨⟨_, rfl, rfl⟩, rfl, rfl, rfl, rfl, ?_, rfl, rfl⟩
  intro j y hj hy
  obtain rfl : j = 0 := by omega
  obtain rfl : Sample.posInf = y := by simpa using hy
  decide

theorem witness_EarlierCauseWins_hold :
    demoHold.block = some (block4 .hold timerA) ∧ (block4 .hold timerA).capturing = true ∧
      bufferFits demoHold [.nan] = true ∧ [Sample.nan][0]? = some .nan ∧ ∀ y ∈ [Sample.nan], classify y = .zero :=
  ⟨rfl, rfl, rfl, rfl, by decide⟩

theorem witness_ReadOnlyOperationsKeepState :
    isReadOnly .getState = true ∧ ∃ t, exec .getState demo = .next t :=
  ⟨rfl, _, rfl⟩

theorem witness_StageOperationsReadOnlyConfiguration :
    isStageOp (.sync [true]) = true ∧ demo.block = some demoBlock ∧
      ({ demo with block := some (block4 .abort timer0) } : State).block = some (block4 .abort timer0) ∧
      demoBlock.spb = (block4 .abort timer0).spb ∧ demoBlock.zeroPolicy = (block4 .abort timer0).zeroPolicy :=
  ⟨rfl, rfl, rfl, rfl, rfl⟩

theorem witness_OnlySignalsWriteTimer :
    mayWriteTimer .start = false ∧ ∃ t, exec .start demo = .next t :=
  ⟨rfl, _, rfl⟩

theorem witness_ConfigurationIsFixed :
    isConstruct .stop = false ∧ ∃ t, exec .stop demo = .next t :=
  ⟨rfl, _, rfl⟩

theorem witness_CaptureModeWriters :
    mayWriteCapturing (.apply 0x49 (digits 0 0 0 0 0)) = false ∧
      ∃ t, exec (.apply 0x49 (digits 0 0 0 0 0)) demo = .next t :=
  ⟨rfl, _, rfl⟩

theorem witness_OperationPreconditions :
    (∃ t, exec .start demo = .next t) ∧ ¬∃ t, exec .start noBlockState = .next t :=
  ⟨⟨_, rfl⟩, by rintro ⟨t, h⟩; cases h⟩

theorem witness_StepKeepsInvariant :
    ({ demo with pending := [⟨.hostOp, .serial, [0x02]⟩] } : State).Inv ∧
      ∃ t, step { demo with pending := [⟨.hostOp, .serial, [0x02]⟩] } = .next t := by
  refine ⟨⟨?_, ?_⟩, _, rfl⟩
  · intro b hb
    obtain rfl : demoBlock = b := by simpa [demo, state4, demoBlock] using hb
    decide +kernel
  · intro e he
    cases he

theorem witness_StepRunsPendingInstruction :
    ({ demo with pending := [⟨.signal, .serial, [0x41, 1, 1, 1, 1, 1]⟩] } : State).pending =
        [⟨.signal, .serial, [0x41, 1, 1, 1, 1, 1]⟩] ∧
      decode .signal [0x41, 1, 1, 1, 1, 1] = .ok (.statusA (digits 1 1 1 1 1)) :=
  ⟨rfl, rfl⟩

theorem witness_StepRefusesWhatHasNoMeaning :
    ({ demo with pending := [⟨.hostOp, .overlapping, [0x02]⟩] } : State).pending = [⟨.hostOp, .overlapping, [0x02]⟩] ∧
      decode .hostOp [0x00] = .error .unassignedSelector :=
  ⟨rfl, rfl⟩

theorem witness_StepIdlesWithNothingPending :
    demo.pending = [] :=
  rfl

theorem witness_DecodeUndoesEncode :
    (Instr.recover [⟨true, 1⟩]).wellFormed = true ∧ (Instr.apply 0x53 (digits 9 9 9 9 9)).wellFormed = true :=
  ⟨by decide, by decide⟩

theorem witness_UnassignedSelectorsAreRejected :
    (0x07 : Byte) ∉ [0x01#8, 0x02#8, 0x03#8, 0x04#8, 0x05#8, 0x06#8, 0x10#8, 0x11#8, 0x12#8, 0x13#8, 0x14#8, 0x15#8,
        0x16#8, 0x17#8, 0x20#8, 0x21#8, 0x22#8, 0x23#8, 0x24#8, 0x25#8, 0x26#8] ∧ (0x21 : Byte) ∉ statusCodes :=
  ⟨by decide, by decide⟩

theorem witness_DeliveriesAreFinalAndOnePerStep :
    ∃ t, step { demo with pending := [⟨.hostOp, .serial, [0x17]⟩] } = .next t :=
  ⟨_, rfl⟩

theorem witness_SynthesizedFrameIsApplied :
    (state4 .abort timerA).block = some demoBlock ∧ demoBlock.capturing = true ∧ 2 ≤ demoBlock.spb ∧ (0 : ℚ) ≤ 1 / 2 ∧
      (1 / 2 : ℚ) < 1 ∧ (0x49 : Byte) ∈ statusCodes ∧ 10 ≤ (10 : Nat) ∧ 1 ≤ (1 : Nat) ∧
      bufferFits (state4 .abort timerA) (synth (lineOf (pktOf 0x49 (digits 1 3 0 2 8)) 10 1) demoBlock.spb (1 / 2)) = true :=
  ⟨rfl, rfl, by decide +kernel, by norm_num, by norm_num, by decide, by decide, by decide, rfl⟩

theorem witness_RecoveredStreamUndoesOversampling :
    1 ≤ (1 : Nat) :=
  by decide

theorem witness_MarkRunsInFrameAreShort :
    (0x41 : Byte) ∈ statusCodes ∧
      (⟨true, 3⟩ : Run) ∈ runsOf (framePeriods (pktOf 0x41 (digits 9 9 9 4 0))) ∧ 9 + 9 + 9 + 4 + 0 = 31 :=
  ⟨by decide, by decide +kernel, rfl⟩

theorem witness_ResetViewsReadZero :
    (-2 : Int) ≠ 0 ∧ 0 < ((-8 : Int) : ℚ) / ((-2 : Int) : ℚ) ∧
      ∃ t, exec (.construct (some (-8, -2)) .hold) noBlockState = .next t := by
  refine ⟨by decide, by norm_num, ?_⟩
  simp only [exec, execConstruct]
  split <;> exact ⟨_, rfl⟩

theorem witness_DecodeRunsTheStagesInOrder :
    demo.block = some demoBlock ∧ bufferFits demo [.negZero, .posInf, .negInf] = true :=
  ⟨rfl, rfl⟩

/- The four codes and the Signal are each reached by DECODE (45_host_ops.md R223): a zero sample, no preamble, a preamble
of 40 samples with one space after it, and the buffer of program P1. -/
theorem witness_DecodeRunsTheStagesInOrder_outcomes :
    resultOn (.decode [.negZero]) .abort = some (.fail (.indeterminate 0)) ∧
      resultOn (.decode [.posInf]) .abort = some (.fail .syncMiss) ∧
      resultOn (.decode (List.replicate 40 .negInf ++ List.replicate 4 .posInf)) .abort = some (.fail (.incomplete 1)) ∧
      resultOn (.decode (synth (lineOf { packetP1 with checksum := 0x4F } 10 2) 4 0)) .abort = some (.fail .invalid) ∧
      resultOn (.decode bufferP1) .abort = some (.ok (.signal ⟨0x49, digits 1 3 0 2 8⟩)) := by
  decide +kernel

end Sys2Proof.Tests
end

/-! The bound on a sample buffer (00_scope.md R9, 93_implementation_defined.md M3): PROCESS_BUFFER, DECODE and SAMPLE are
each an `onBuffer`, whose guard refuses a buffer that does not fit, whatever the operation would then do. -/

namespace Sys2Proof.Machine

section
variable {s : State} {b : Block} {n : Nat} {buf : List Sample} {k : Block → Answer}

theorem bufferFits_eq_false_of_lt (hn : s.maxBufferLen = some n) (hlen : n < buf.length) :
    bufferFits s buf = false := by
  rw [Bool.eq_false_iff]
  intro hfits
  have hle : buf.length ≤ n := bufferFits_iff.1 hfits n hn
  omega

theorem onBuffer_of_not_fits (hb : s.block = some b) (hfits : bufferFits s buf = false) :
    onBuffer s buf k = .refused .bufferTooLong := by
  rw [onBuffer, onBlock_some hb, hfits]
  rfl

end

/-- Settles O19: the guard the three operations share refuses for every continuation, so for theirs; as the capture mode
is read only in PROCESS_BUFFER's continuation, it plays no part. -/
theorem longBuffersAreRefused : Obligations.LongBuffersAreRefused := by
  intro s b n buf hb hn hlen
  have refused : ∀ k : Block → Answer, onBuffer s buf k = .refused .bufferTooLong :=
    fun _ => onBuffer_of_not_fits hb (bufferFits_eq_false_of_lt hn hlen)
  exact ⟨refused _, refused _, refused _⟩

end Sys2Proof.Machine

/-! The invariant of the machine (10_state.md R22, R26, R29; 45_host_ops.md R227): each update of the state keeps it,
and an instruction's effect is a few such updates. -/

namespace Sys2Proof.Machine

/-! ### The run/reset axis -/

/-- ' ', 'S', 'I' and 'C' write an axis flag to false; 'L', 'R', 'A' and any other byte write neither. -/
theorem flagsFor_onAxis {c : Byte} {t : Timer} (h : t.OnAxis) : (flagsFor c t).OnAxis := by
  unfold flagsFor
  split_ifs
  · simp
  · simp
  · simp
  · simpa using h
  · simpa using h
  · simp
  · simpa using h
  · simpa using h

@[simp] theorem applySignal_digits (sig : Signal) (t : Timer) : (applySignal sig t).digits = sig.digits := rfl

theorem applySignal_onAxis {sig : Signal} {t : Timer} (h : t.OnAxis) : (applySignal sig t).OnAxis := by
  have hands : (clearHands t).OnAxis := by simpa using h
  simpa [applySignal, timerArm] using flagsFor_onAxis (c := sig.status) hands

/-! ### The updates of the state keep the invariant -/

section
variable {s t : State} {b : Block}

theorem State.Inv.of_block (h : s.Inv) (hb : s.block = some b) : b.Inv := h.1 b hb

theorem State.Inv.withResult (h : s.Inv) (r : Result) : (s.withResult r).Inv := h

theorem State.Inv.withPending (h : s.Inv) (rs : List Request) : (s.withPending rs).Inv := h

theorem State.Inv.withBlock (h : s.Inv) {ob : Option Block} (hob : ∀ b ∈ ob, b.Inv) : (s.withBlock ob).Inv :=
  ⟨hob, h.2⟩

theorem State.Inv.withSomeBlock (h : s.Inv) (hb : b.Inv) : (s.withBlock (some b)).Inv :=
  h.withBlock (by simpa using hb)

theorem State.Inv.emit (h : s.Inv) {e : Emission} (he : e.Inv) : (s.emit e).Inv := by
  refine ⟨h.1, fun e' he' => ?_⟩
  obtain hold | rfl : e' ∈ s.delivered ∨ e' = e := by simpa using he'
  · exact h.2 e' hold
  · exact he

theorem Block.Inv.withTimer_applySignal (h : b.Inv) (sig : Signal) : (b.withTimer (applySignal sig b.timer)).Inv :=
  ⟨h.1, applySignal_onAxis h.2⟩

theorem Block.Inv.withCapturing (h : b.Inv) (on : Bool) : (b.withCapturing on).Inv := h

theorem newBlock_inv {spb : ℚ} (pos : 0 < spb) (policy : ZeroPolicy) : (newBlock spb policy).Inv :=
  ⟨pos, by simp⟩

theorem accept_next {sig : Signal} (h : accept s b sig = .next t) :
    t = ((s.withBlock (some (b.withTimer (applySignal sig b.timer)))).emit
      ⟨sig, applySignal sig b.timer⟩).withResult (.ok (.emission ⟨sig, applySignal sig b.timer⟩)) :=
  (finish_eq_next _).1 h

/-! ### Every effect keeps the invariant -/

theorem Effect.inv (he : Effect s t) (h : s.Inv) : t.Inv := by
  cases he with
  | answered r ht => exact ht ▸ h.withResult r
  | applied b sig hb _ ht =>
    have hb' := (h.of_block hb).withTimer_applySignal sig
    exact ht ▸ (h.withSomeBlock hb').withResult _
  | accepted b sig hb _ legal ht =>
    have hb' := (h.of_block hb).withTimer_applySignal sig
    exact accept_next ht ▸ ((h.withSomeBlock hb').emit ⟨legal, applySignal_digits sig _, hb'.2⟩).withResult _
  | toggled b on hb ht =>
    exact ht ▸ (h.withSomeBlock ((h.of_block hb).withCapturing on)).withResult _
  | constructed q policy pos ht => exact ht ▸ (h.withSomeBlock (newBlock_inv pos policy)).withResult _
  | rejected ht => exact ht ▸ (h.withBlock (by simp)).withResult _

end

/-- Settles O47: a step is idle, or it is one instruction's effect on the state with the request taken off. -/
theorem stepKeepsInvariant : Obligations.StepKeepsInvariant := by
  intro s t h hstep
  obtain ⟨-, rfl⟩ | ⟨_, rest, i, -, -, hexec⟩ := step_next hstep
  · exact h
  · exact (exec_next hexec).inv (h.withPending rest)

end Sys2Proof.Machine

/-! Only the signs of a buffer matter (10_state.md R27): what an operation on a buffer reads of it is its length, for
the bound, and its symbols, and both are functions of its classes. -/

namespace Sys2Proof.Machine

theorem classify_of_neg {x : ℚ} (h : x < 0) : classify (.finite x) = .neg := by
  simp [classify, h]

theorem classify_of_pos {x : ℚ} (h : 0 < x) : classify (.finite x) = .pos := by
  simp [classify, h, h.le]

section
variable {s : State} {buf buf' : List Sample} (h : buf.map classify = buf'.map classify)
include h

theorem bufferFits_eq_of_classes : bufferFits s buf = bufferFits s buf' := by
  have hlen : buf.length = buf'.length := by simpa using congrArg List.length h
  rw [Bool.eq_iff_iff, bufferFits_iff, bufferFits_iff, hlen]

theorem pipe_eq_of_classes (spb : ℚ) (policy : ZeroPolicy) : pipe spb policy buf = pipe spb policy buf' := by
  rw [pipe, pipe, sampleBuffer_eq_of_classes h]

theorem onBuffer_eq_of_classes (k : Block → Answer) : onBuffer s buf k = onBuffer s buf' k := by
  rw [onBuffer, onBuffer, bufferFits_eq_of_classes h]

theorem execProcessBuffer_eq_of_classes : execProcessBuffer buf s = execProcessBuffer buf' s := by
  simp only [execProcessBuffer, pipe_eq_of_classes h]
  exact onBuffer_eq_of_classes h _

theorem execDecode_eq_of_classes : execDecode buf s = execDecode buf' s := by
  simp only [execDecode, pipe_eq_of_classes h]
  exact onBuffer_eq_of_classes h _

theorem execSample_eq_of_classes : execSample buf s = execSample buf' s := by
  rw [execSample, execSample, sampleBuffer_eq_of_classes h]
  exact onBuffer_eq_of_classes h _

end

/-- Settles O25: the bound and the symbols are all an operation reads of its buffer. -/
theorem onlySignsMatter : Obligations.OnlySignsMatter :=
  ⟨⟨fun _ => classify_of_neg, fun _ => classify_of_pos, by simp [classify], rfl, rfl, rfl, rfl⟩,
    fun _ _ _ h => ⟨execProcessBuffer_eq_of_classes h, execDecode_eq_of_classes h, execSample_eq_of_classes h⟩⟩

end Sys2Proof.Machine

/-! What an instruction other than CONSTRUCT leaves of the block (10_state.md R22, R23): the configuration always, the
capture mode and the timer unless it is one of their writers. -/

namespace Sys2Proof.Machine

section
variable {s t : State} {b : Block} {i : Instr}

theorem settle_next_withResult {r : Except Failure Value} (h : settle s r = .next t) : ∃ r', t = s.withResult r' := by
  obtain ⟨v, -, ht⟩ | ⟨f, -, ht⟩ := settle_next h
  · exact ⟨_, ht⟩
  · exact ⟨_, ht⟩

/-- A read-only operation runs on a block and only answers. -/
theorem exec_next_of_isReadOnly (hi : isReadOnly i = true) (h : exec i s = .next t) :
    ∃ b r, s.block = some b ∧ t = s.withResult r := by
  cases i with
  | getTimeStr | getTimeMs | isRunning | isReset | isLeftHand | isRightHand | getDigits | getState =>
    obtain ⟨b, hb, ht⟩ := view_next h
    exact ⟨b, _, hb, ht⟩
  | resolve sym | sync sym | assemble sym | validate pkt =>
    obtain ⟨b, hb, h⟩ := onBlock_next h
    obtain ⟨r, ht⟩ := settle_next_withResult h
    exact ⟨b, r, hb, ht⟩
  | decode buf =>
    obtain ⟨b, hb, -, h⟩ := onBuffer_next h
    obtain ⟨r, ht⟩ := settle_next_withResult h
    exact ⟨b, r, hb, ht⟩
  | sample buf =>
    obtain ⟨b, hb, -, h⟩ := onBuffer_next h
    exact ⟨b, _, hb, (finish_eq_next _).1 h⟩
  | runs seq =>
    obtain ⟨b, hb, h⟩ := onBlock_next h
    exact ⟨b, _, hb, (finish_eq_next _).1 h⟩
  | recover rs =>
    obtain ⟨b, hb, h⟩ := onBlock_next h
    split at h
    · exact ⟨b, _, hb, (finish_eq_next _).1 h⟩
    · cases h
  | _ => cases hi

/-- What instruction `i` keeps of a block `b` on the way to `b'`. -/
structure BlockFrame (i : Instr) (b b' : Block) : Prop where
  spb : b'.spb = b.spb
  zeroPolicy : b'.zeroPolicy = b.zeroPolicy
  capturing : mayWriteCapturing i = false → b'.capturing = b.capturing
  timer : mayWriteTimer i = false → b'.timer = b.timer

theorem BlockFrame.refl (i : Instr) (b : Block) : BlockFrame i b b := ⟨rfl, rfl, fun _ => rfl, fun _ => rfl⟩

theorem BlockFrame.withTimer (hi : mayWriteTimer i = true) (τ : Timer) : BlockFrame i b (b.withTimer τ) :=
  ⟨rfl, rfl, fun _ => rfl, by simp [hi]⟩

theorem BlockFrame.withCapturing (hi : mayWriteCapturing i = true) (on : Bool) :
    BlockFrame i b (b.withCapturing on) :=
  ⟨rfl, rfl, by simp [hi], fun _ => rfl⟩

/-- Every instruction but CONSTRUCT runs on a block and leaves one within its frame. -/
theorem exec_blockFrame (hi : isConstruct i = false) (h : exec i s = .next t) :
    ∃ b b', s.block = some b ∧ t.block = some b' ∧ BlockFrame i b b' := by
  cases hro : isReadOnly i with
  | true =>
    obtain ⟨b, r, hb, rfl⟩ := exec_next_of_isReadOnly hro h
    exact ⟨b, b, hb, hb, .refl i b⟩
  | false =>
    cases i with
    | construct spb policy => cases hi
    | statusSpace d | statusS d | statusI d | statusL d | statusR d | statusC d | statusA d =>
      obtain ⟨b, hb, rfl⟩ := runArm_next h
      exact ⟨b, _, hb, rfl, .withTimer rfl _⟩
    | apply c d =>
      obtain ⟨-, b, hb, rfl⟩ := execApply_next h
      exact ⟨b, _, hb, rfl, .withTimer rfl _⟩
    | start | stop =>
      obtain ⟨b, hb, rfl⟩ := update_next h
      exact ⟨b, _, hb, rfl, .withCapturing rfl _⟩
    | processBuffer buf =>
      obtain ⟨b, hb, -, ⟨-, rfl⟩ | ⟨-, f, -, rfl⟩ | ⟨-, sig, -, hacc⟩⟩ := execProcessBuffer_next h
      · exact ⟨b, b, hb, hb, .refl _ b⟩
      · exact ⟨b, b, hb, hb, .refl _ b⟩
      · obtain rfl := accept_next hacc
        exact ⟨b, _, hb, rfl, .withTimer rfl _⟩
    | _ => cases hro

theorem Effect.maxBufferLen_eq (he : Effect s t) : t.maxBufferLen = s.maxBufferLen := by
  cases he with
  | accepted b sig _ _ _ ht => simp [accept_next ht]
  | answered _ ht | applied _ _ _ _ ht | toggled _ _ _ ht | constructed _ _ _ ht | rejected ht => simp [ht]

theorem isConstruct_eq_false_of_mayWriteCapturing (hi : mayWriteCapturing i = false) : isConstruct i = false := by
  cases i with
  | construct spb policy => cases hi
  | _ => rfl

end

/-- Settles O43: the bound by the effect of any instruction, the configuration by the frame of one but CONSTRUCT. -/
theorem configurationIsFixed : Obligations.ConfigurationIsFixed := by
  intro s t i h
  refine ⟨(exec_next h).maxBufferLen_eq, fun hi => ?_⟩
  obtain ⟨b, b', hb, hb', frame⟩ := exec_blockFrame hi h
  simp [hb, hb', frame.spb, frame.zeroPolicy]

/-- Settles O44, from the frame: START and STOP are the only writers of the capture mode other than CONSTRUCT. -/
theorem captureModeWriters : Obligations.CaptureModeWriters := by
  intro s t i hi h
  obtain ⟨b, b', hb, hb', frame⟩ := exec_blockFrame (isConstruct_eq_false_of_mayWriteCapturing hi) h
  simp [hb, hb', frame.capturing hi]

end Sys2Proof.Machine

/-! The state a construction makes (10_state.md R30, R31). -/

namespace Sys2Proof.Machine

theorem execConstruct_of_usable {p q : Int} (h : usableSpb p q = true) (policy : ZeroPolicy) (s : State) :
    execConstruct (some (p, q)) policy s =
      finish (s.withBlock (some (newBlock ((p : ℚ) / (q : ℚ)) policy))) .unit := by
  simp [execConstruct, h]

theorem view_some {s : State} {b : Block} (hb : s.block = some b) (f : Block → Value) :
    view s f = .next (s.withResult (.ok (f b))) := by
  rw [view, onBlock_some hb, finish]

theorem execGetTimeStr_some {s : State} {b : Block} (hb : s.block = some b) :
    execGetTimeStr s = .next (s.withResult (.ok (.bytes (timeString b.timer.digits)))) :=
  view_some hb _

theorem execGetTimeMs_some {s : State} {b : Block} (hb : s.block = some b) :
    execGetTimeMs s = .next (s.withResult (.ok (.nat (timeMs b.timer.digits)))) :=
  view_some hb _

/-- The seven characters of "0:00.00". -/
theorem timeString_zero : timeString ⟨0, 0, 0, 0, 0⟩ = [0x30, 0x3A, 0x30, 0x30, 0x2E, 0x30, 0x30] := by decide

theorem timeMs_zero : timeMs ⟨0, 0, 0, 0, 0⟩ = 0 := by decide

/-- Settles O11: a usable pair takes CONSTRUCT's accepting branch, which answers `newBlock` and OK. -/
theorem constructMakesResetState : Obligations.ConstructMakesResetState :=
  fun s _ _ z hq hpos => execConstruct_of_usable (usableSpb_iff.2 ⟨hq, hpos⟩) z s

/-- Settles O46: the reset state's block is the `newBlock` of a positive samples-per-bit, and nothing is delivered. -/
theorem resetStateMeetsInvariant : Obligations.ResetStateMeetsInvariant := by
  have pos : 0 < Config.resetSpb := by norm_num [Config.resetSpb]
  have hblock : State.reset.block = some (newBlock Config.resetSpb .abort) := rfl
  have hinv : State.reset.Inv := by
    refine ⟨fun b hb => ?_, fun e he => by cases he⟩
    obtain rfl : newBlock Config.resetSpb .abort = b := by simpa [hblock] using hb
    exact newBlock_inv pos .abort
  exact ⟨⟨_, hblock, pos, rfl, rfl, rfl⟩, rfl, rfl, rfl, rfl, hinv⟩

/-- Settles O59: the views read the block O11 gives, whose digits are zero. -/
theorem resetViewsReadZero : Obligations.ResetViewsReadZero := by
  intro s t p q z hq hpos h
  have hb : t.block = some (newBlock ((p : ℚ) / (q : ℚ)) z) := by
    rw [constructMakesResetState s p q z hq hpos] at h
    obtain rfl := Host.Outcome.next.inj h
    rfl
  have hstr := execGetTimeStr_some hb
  have hms := execGetTimeMs_some hb
  rw [newBlock_timer, timeString_zero] at hstr
  rw [newBlock_timer, timeMs_zero] at hms
  exact ⟨hstr, hms⟩

end Sys2Proof.Machine

/-! The read-only operations (20_memory.md R59) on two states: they answer alike wherever what they read agrees. -/

namespace Sys2Proof.Machine

/-- Two runs, from `s` and from `s'`, that answer alike: each leaves its own state but for one and the same result, or
both are refused for the same reason. -/
inductive SameAnswer (s s' : State) : Answer → Answer → Prop where
  | answered (r : Result) : SameAnswer s s' (.next (s.withResult r)) (.next (s'.withResult r))
  | refused (e : Refusal) : SameAnswer s s' (.refused e) (.refused e)

namespace SameAnswer
variable {s s' t : State} {a a' : Answer}

theorem resultOf_eq (h : SameAnswer s s' a a') : resultOf a = resultOf a' := by
  cases h with
  | answered r => rfl
  | refused e => rfl

theorem of_next (h : SameAnswer s s' (.next t) a') : ∃ r, t = s.withResult r ∧ a' = .next (s'.withResult r) := by
  cases h with
  | answered r => exact ⟨r, rfl, rfl⟩

/-! ### The shared operations answer alike -/

theorem finish {v v' : Value} (h : v = v') : SameAnswer s s' (finish s v) (finish s' v') :=
  h ▸ .answered _

theorem settle {r r' : Except Failure Value} (h : r = r') : SameAnswer s s' (settle s r) (settle s' r') := by
  subst h
  cases r with
  | ok v => exact .answered (.ok v)
  | error f => exact .answered (.fail f)

theorem guarded {c c' : Bool} {e : Refusal} (hc : c = c') (h : SameAnswer s s' a a') :
    SameAnswer s s' (if c then a else .refused e) (if c' then a' else .refused e) := by
  subst hc
  cases c with
  | true => exact h
  | false => exact .refused e

section
variable {b b' : Block} {k k' : Block → Answer} (hb : s.block = some b) (hb' : s'.block = some b')
include hb hb'

theorem onBlock (h : SameAnswer s s' (k b) (k' b')) : SameAnswer s s' (onBlock s k) (onBlock s' k') := by
  rwa [onBlock_some hb, onBlock_some hb']

theorem onBuffer {buf : List Sample} (hmax : s.maxBufferLen = s'.maxBufferLen) (h : SameAnswer s s' (k b) (k' b')) :
    SameAnswer s s' (onBuffer s buf k) (onBuffer s' buf k') := by
  have hfits : bufferFits s buf = bufferFits s' buf := by rw [bufferFits, bufferFits, hmax]
  exact onBlock hb hb' (guarded hfits h)

theorem view {f : Block → Value} (hf : f b = f b') : SameAnswer s s' (view s f) (view s' f) :=
  onBlock hb hb' (finish hf)

end
end SameAnswer

section
variable {s s' : State} {i : Instr}

/-- DECODE and the probes read nothing but the samples-per-bit, the zero policy and the bound. -/
theorem exec_sameAnswer_of_isStageOp {b b' : Block} (hi : isStageOp i = true) (hb : s.block = some b)
    (hb' : s'.block = some b') (hspb : b.spb = b'.spb) (hpolicy : b.zeroPolicy = b'.zeroPolicy)
    (hmax : s.maxBufferLen = s'.maxBufferLen) : SameAnswer s s' (exec i s) (exec i s') := by
  cases i with
  | decode buf => exact .onBuffer hb hb' hmax (.settle (by rw [hspb, hpolicy]))
  | sample buf => exact .onBuffer hb hb' hmax (.finish rfl)
  | resolve sym => exact .onBlock hb hb' (.settle (by rw [hpolicy]))
  | sync rsym => exact .onBlock hb hb' (.settle (by rw [hspb]))
  | runs seq => exact .onBlock hb hb' (.finish rfl)
  | recover rs => exact .onBlock hb hb' (.guarded rfl (.finish (by rw [hspb])))
  | assemble bits => exact .onBlock hb hb' (.settle rfl)
  | validate pkt => exact .onBlock hb hb' (.settle rfl)
  | _ => cases hi

/-- A view reads the whole block, so here the blocks themselves agree. -/
theorem exec_sameAnswer_of_isReadOnly {b : Block} (hi : isReadOnly i = true) (hb : s.block = some b)
    (hb' : s'.block = some b) (hmax : s.maxBufferLen = s'.maxBufferLen) : SameAnswer s s' (exec i s) (exec i s') := by
  cases hstage : isStageOp i with
  | true => exact exec_sameAnswer_of_isStageOp hstage hb hb' rfl rfl hmax
  | false =>
    cases i with
    | getTimeStr | getTimeMs | isRunning | isReset | isLeftHand | isRightHand | getDigits | getState =>
      exact .view hb hb' rfl
    | decode | sample | resolve | sync | runs | recover | assemble | validate => cases hstage
    | _ => cases hi

end

/-- Settles O40: `t` is `s` but for its result, which a read-only operation does not read, so from `t` it answers as it
did from `s`, and writes the result `t` already has. -/
theorem readOnlyOperationsKeepState : Obligations.ReadOnlyOperationsKeepState := by
  intro s t i hi h
  obtain ⟨b, r, hb, rfl⟩ := exec_next_of_isReadOnly hi h
  have same : SameAnswer s (s.withResult r) (exec i s) (exec i (s.withResult r)) :=
    exec_sameAnswer_of_isReadOnly hi hb hb rfl
  rw [h] at same
  obtain ⟨r', hr, hagain⟩ := same.of_next
  obtain rfl : r = r' := congrArg State.result hr
  exact ⟨rfl, hagain⟩

/-- Settles O41: answers that are alike carry the same result. -/
theorem stageOperationsReadOnlyConfiguration : Obligations.StageOperationsReadOnlyConfiguration :=
  fun _ _ _ _ _ hi hb hb' hspb hpolicy hmax =>
    (exec_sameAnswer_of_isStageOp hi hb hb' hspb hpolicy hmax).resultOf_eq

end Sys2Proof.Machine

/-! The writers of the Timer State (10_state.md R24), the deliveries (20_memory.md R63, 45_host_ops.md R227), and the
request a step takes off the queue (20_memory.md R61). -/

namespace Sys2Proof.Machine

section
variable {s t : State} {i : Instr}

theorem isConstruct_eq_false_of_mayWriteTimer (hi : mayWriteTimer i = false) : isConstruct i = false := by
  cases i with
  | construct spb policy => cases hi
  | _ => rfl

/-- Only an accepted Signal is delivered, with the timer it leaves as its snapshot. -/
theorem Effect.delivered (he : Effect s t) :
    t.delivered = s.delivered ∨
      ∃ e : Emission, t.delivered = s.delivered ++ [e] ∧ t.result = .ok (.emission e) ∧
        t.block.map Block.timer = some e.snapshot ∧ e.signal.Legal := by
  cases he with
  | accepted b sig _ _ legal hacc =>
    obtain rfl := accept_next hacc
    exact .inr ⟨_, rfl, rfl, rfl, legal⟩
  | answered _ ht | applied _ _ _ _ ht | toggled _ _ _ ht | constructed _ _ _ ht | rejected ht =>
    exact .inl (by simp [ht])

theorem step_of_fetchInstr {r : Request} {rest : List Request} (hp : s.pending = r :: rest)
    (hf : fetchInstr r = .ok i) : step s = exec i (s.withPending rest) := by
  simp [step, hp, hf]

end

/-- Settles O42, from the frame: START, STOP and the read-only operations keep the block's timer. -/
theorem onlySignalsWriteTimer : Obligations.OnlySignalsWriteTimer := by
  intro s t i hi h
  obtain ⟨b, b', hb, hb', frame⟩ := exec_blockFrame (isConstruct_eq_false_of_mayWriteTimer hi) h
  simp [hb, hb', frame.timer hi]

/-- Settles O54: a step is idle, or it is one instruction's effect, and taking the request off delivers nothing. -/
theorem deliveriesAreFinalAndOnePerStep : Obligations.DeliveriesAreFinalAndOnePerStep := by
  intro s t hstep
  obtain ⟨-, rfl⟩ | ⟨_, _, _, -, -, hexec⟩ := step_next hstep
  · exact .inl rfl
  · exact (exec_next hexec).delivered

/-- Settles O48: a serial request that decodes is fetched as that instruction. -/
theorem stepRunsPendingInstruction : Obligations.StepRunsPendingInstruction :=
  fun _ _ _ _ hp hserial hdecode => step_of_fetchInstr hp (fetchInstr_ok.2 ⟨hserial, hdecode⟩)

end Sys2Proof.Machine

/-! The requests an instruction is sent as (30_encoding.md R79, R84): `decode` undoes `encode`, and refuses a first byte
that no row of the table has. -/

namespace Sys2Proof

/-! ### Whole requests: nothing follows the last operand -/

theorem decode_of_prefix_ok {port : Port} {bytes : List Byte} {i : Instr}
    (h : decodePrefix port bytes = .ok (i, [])) : decode port bytes = .ok i := by
  rw [decode, h]

theorem decode_of_prefix_error {port : Port} {bytes : List Byte} {e : DecodeError}
    (h : decodePrefix port bytes = .error e) : decode port bytes = .error e := by
  rw [decode, h]

section
variable {α : Type} {take : List Byte → Except DecodeError (α × List Byte)} {enc : α → List Byte}

/-- A reader that undoes its encoder, on the last operand of a request. -/
theorem withOperand_encode (h : ∀ x r, take (enc x ++ r) = .ok (x, r)) (make : α → Instr) (x : α) :
    withOperand make (take (enc x)) = .ok (make x, []) := by
  have last : take (enc x) = .ok (x, []) := by simpa using h x []
  rw [last, withOperand]

theorem withOperand_encodeSeq (h : ∀ x r, take (enc x ++ r) = .ok (x, r)) (make : List α → Instr) (xs : List α) :
    withOperand make (takeSeq take (encodeSeq enc xs)) = .ok (make xs, []) :=
  withOperand_encode (takeSeq_encodeSeq h) make xs

end

theorem decodeApply_encode (status : Byte) (d : Digits) :
    decodeApply (status :: encodeDigits d) = .ok (.apply status d, []) := by
  rw [decodeApply, takeByte_cons]
  exact withOperand_encode takeDigits_encodeDigits _ d

/-- Where both integers of spb and a further byte are there, that byte is read as the policy. -/
theorem decodeConstruct_of_takeInt {bytes r operand : List Byte} {p q : Int} (hp : takeInt bytes = .ok (p, r))
    (hq : takeInt r = .ok (q, operand)) (hne : operand ≠ []) :
    decodeConstruct bytes = withOperand (.construct (some (p, q))) (takePolicy operand) := by
  cases bytes with
  | nil => cases hp
  | cons b bs =>
    cases operand with
    | nil => exact absurd rfl hne
    | cons z zs => simp only [decodeConstruct, hp, hq]

theorem encodePolicy_ne_nil (policy : ZeroPolicy) : encodePolicy policy ≠ [] := by
  cases policy with
  | abort => exact List.cons_ne_nil _ _
  | hold => exact List.cons_ne_nil _ _

theorem decodeConstruct_encodeConstruct {spb : Option (Int × Int)} {policy : ZeroPolicy}
    (hwf : wfConstruct spb policy = true) :
    decodeConstruct (encodeConstruct spb policy) = .ok (.construct spb policy, []) := by
  match spb with
  | none =>
    obtain rfl : policy = .abort := by simpa [wfConstruct] using hwf
    rfl
  | some (p, q) =>
    rw [encodeConstruct, decodeConstruct_of_takeInt (takeInt_encodeInt p _) (takeInt_encodeInt q _)
      (encodePolicy_ne_nil policy)]
    exact withOperand_encode takePolicy_encodePolicy _ policy

/-- Settles O51: an instruction's first byte selects its row, whose readers undo the encoders of its operands. The one
form that is not its operands' own is CONSTRUCT's, where absent operands have no bytes. -/
theorem decodeUndoesEncode : Obligations.DecodeUndoesEncode := by
  intro i hwf
  cases i with
  | statusSpace d | statusS d | statusI d | statusL d | statusR d | statusC d | statusA d =>
    exact decode_of_prefix_ok (withOperand_encode takeDigits_encodeDigits _ d)
  | construct spb policy => exact decode_of_prefix_ok (decodeConstruct_encodeConstruct hwf)
  | apply status d => exact decode_of_prefix_ok (decodeApply_encode status d)
  | processBuffer buf | decode buf | sample buf =>
    exact decode_of_prefix_ok (withOperand_encodeSeq takeSample_encodeSample _ buf)
  | resolve sym => exact decode_of_prefix_ok (withOperand_encodeSeq takeSymbol_encodeSymbol _ sym)
  | sync bits | runs bits | assemble bits =>
    exact decode_of_prefix_ok (withOperand_encodeSeq takeBit_encodeBit _ bits)
  | recover rs => exact decode_of_prefix_ok (withOperand_encodeSeq takeRun_encodeRun _ rs)
  | validate pkt => exact decode_of_prefix_ok (withOperand_encode takePacket_packetBytes _ pkt)
  | start | stop | getTimeStr | getTimeMs | isRunning | isReset | isLeftHand | isRightHand | getDigits | getState =>
    exact decode_of_prefix_ok rfl

/-- Settles O52: the words that decode are the encodings of their instructions, so O51 reads them back. -/
theorem specWordsDecode : Obligations.SpecWordsDecode :=
  ⟨decodeUndoesEncode .start rfl, decodeUndoesEncode .getTimeStr rfl,
    decodeUndoesEncode (.apply 0x49 ⟨0, 0, 0, 0, 0⟩) rfl,
    decodeUndoesEncode (.construct (some (4, 1)) .abort) rfl,
    decodeUndoesEncode (.validate ⟨0x49, 0x31, 0x33, 0x30, 0x32, 0x38, 0x4E, 0x0A, 0x0D⟩) rfl,
    decodeUndoesEncode (.statusS ⟨0, 1, 2, 3, 4⟩) rfl,
    rfl, rfl, rfl, rfl, rfl⟩

/-! ### First bytes the table does not list -/

theorem mem_of_toNat_eq {b : Byte} {n : Nat} {l : List Byte} (h : b.toNat = n) (hn : BitVec.ofNat 8 n ∈ l) : b ∈ l := by
  obtain rfl : b = BitVec.ofNat 8 n := by rw [← h, BitVec.ofNat_toNat, BitVec.setWidth_eq]
  exact hn

/-- The selectors of 30_encoding.md R79. -/
def hostSelectors : List Byte :=
  [0x01, 0x02, 0x03, 0x04, 0x05, 0x06, 0x10, 0x11, 0x12, 0x13, 0x14, 0x15, 0x16, 0x17,
    0x20, 0x21, 0x22, 0x23, 0x24, 0x25, 0x26]

/-- Each row of the decoder's table has a listed selector. -/
theorem decodeHostOp_of_not_mem {sel : Byte} (hsel : sel ∉ hostSelectors) (operands : List Byte) :
    decodeHostOp sel operands = .error .unassignedSelector := by
  unfold decodeHostOp
  split
  case h_22 => rfl
  all_goals exact absurd (mem_of_toNat_eq ‹_› (by decide)) hsel

theorem decodeSignal_of_not_mem {c : Byte} (hc : c ∉ Machine.statusCodes) (digits : List Byte) :
    decodeSignal c digits = .error .unassignedStatus := by
  unfold decodeSignal
  split
  case h_8 => rfl
  all_goals exact absurd (mem_of_toNat_eq ‹_› (by decide)) hc

/-- Settles O53: an unlisted first byte takes the last branch of its port's table, before any operand is read. -/
theorem unassignedSelectorsAreRejected : Obligations.UnassignedSelectorsAreRejected :=
  ⟨fun _ operands hsel => decode_of_prefix_error (decodeHostOp_of_not_mem hsel operands),
    fun _ digits hc => decode_of_prefix_error (decodeSignal_of_not_mem hc digits)⟩

/-! ### Digits above 9 -/

theorem lt_ten_of_takeDigit_ok {b : Byte} {r r' : List Byte} {d : Fin 10} (h : takeDigit (b :: r) = .ok (d, r')) :
    b.toNat < 10 ∧ r' = r := by
  rw [takeDigit] at h
  split at h
  · exact ⟨‹_›, by simp_all⟩
  · cases h

theorem exists_of_bind_eq_ok {ε α β : Type} {x : Except ε α} {f : α → Except ε β} {b : β} (h : x >>= f = .ok b) :
    ∃ a, x = .ok a ∧ f a = .ok b := by
  cases x with
  | error e => cases h
  | ok a => exact ⟨a, rfl, h⟩

/-- Five bytes that are read as digits are all 0..9. -/
theorem lt_ten_of_takeDigits_ok {x y z w v : Byte} {r : List Byte} {p : Digits × List Byte}
    (h : takeDigits (x :: y :: z :: w :: v :: r) = .ok p) :
    x.toNat < 10 ∧ y.toNat < 10 ∧ z.toNat < 10 ∧ w.toNat < 10 ∧ v.toNat < 10 := by
  obtain ⟨⟨_, _⟩, h0, h⟩ := exists_of_bind_eq_ok h
  obtain ⟨hx, rfl⟩ := lt_ten_of_takeDigit_ok h0
  obtain ⟨⟨_, _⟩, h1, h⟩ := exists_of_bind_eq_ok h
  obtain ⟨hy, rfl⟩ := lt_ten_of_takeDigit_ok h1
  obtain ⟨⟨_, _⟩, h2, h⟩ := exists_of_bind_eq_ok h
  obtain ⟨hz, rfl⟩ := lt_ten_of_takeDigit_ok h2
  obtain ⟨⟨_, _⟩, h3, h⟩ := exists_of_bind_eq_ok h
  obtain ⟨hw, rfl⟩ := lt_ten_of_takeDigit_ok h3
  obtain ⟨⟨_, _⟩, h4, -⟩ := exists_of_bind_eq_ok h
  exact ⟨hx, hy, hz, hw, (lt_ten_of_takeDigit_ok h4).1⟩

theorem decodeApply_of_takeDigits_error {status : Byte} {digits : List Byte} {e : DecodeError}
    (h : takeDigits digits = .error e) : decodeApply (status :: digits) = .error e := by
  simp only [decodeApply, takeByte_cons, h, withOperand]

namespace Machine

theorem execApply_of_not_mem {s : State} {b : Block} {c : Byte} (d : Digits) (hb : s.block = some b)
    (hc : c ∉ statusCodes) : execApply c d s = .refused .illegalSignal := by
  rw [execApply, onBlock_some hb, isStatusCode, decide_eq_false hc]
  rfl

/-- Settles O9: APPLY tests its status byte before it writes, and its five digit bytes are read only if all are 0..9. -/
theorem applyRefusesIllegalSignals : Obligations.ApplyRefusesIllegalSignals := by
  refine ⟨fun s b c d hb hc => execApply_of_not_mem d hb hc, fun c x y z w v i hbad => ?_⟩
  cases hdigits : takeDigits [x, y, z, w, v] with
  | ok p =>
    have hgood := lt_ten_of_takeDigits_ok hdigits
    omega
  | error e =>
    have hrefused : decode .hostOp [0x06, c, x, y, z, w, v] = .error e :=
      decode_of_prefix_error (decodeApply_of_takeDigits_error hdigits)
    exact fun hok => nomatch hrefused.symm.trans hok

end Machine

end Sys2Proof

/-! A line as samples (30_encoding.md R85): each bit period is a block of samples between two edges, RUNS cuts at edges
only, and RECOVER gives the line back where the distance of any two edges rounds to the periods between them. -/

namespace Sys2Proof.Machine

/-! ### Bit periods held between edges: period `k` is held from sample `e k` to sample `e (k + 1)` -/

/-- The samples of a line whose first bit period is number `k`. -/
def heldFrom (e : Nat → Nat) : Nat → List Bit → List Bit
  | _, [] => []
  | k, b :: bs => List.replicate (e (k + 1) - e k) b ++ heldFrom e (k + 1) bs

/-- The same for runs, counted in bit periods before and in samples after. -/
def heldRunsFrom (e : Nat → Nat) : Nat → List Run → List Run
  | _, [] => []
  | k, r :: rs => ⟨r.sym, e (k + r.len) - e k⟩ :: heldRunsFrom e (k + r.len) rs

section
variable {e : Nat → Nat}

theorem heldFrom_append (k : Nat) (bs bs' : List Bit) :
    heldFrom e k (bs ++ bs') = heldFrom e k bs ++ heldFrom e (k + bs.length) bs' := by
  induction bs generalizing k with
  | nil => rfl
  | cons b bs ih =>
    have hk : k + 1 + bs.length = k + (bs.length + 1) := by omega
    simp [heldFrom, ih, hk]

theorem heldFrom_replicate (he : Monotone e) (k n : Nat) (b : Bit) :
    heldFrom e k (List.replicate n b) = List.replicate (e (k + n) - e k) b := by
  induction n generalizing k with
  | zero => simp [heldFrom]
  | succ n ih =>
    have h1 : e k ≤ e (k + 1) := he (by omega)
    have h2 : e (k + 1) ≤ e (k + 1 + n) := he (by omega)
    have hk : k + (n + 1) = k + 1 + n := by omega
    rw [List.replicate_succ, heldFrom, ih, List.replicate_append_replicate, hk]
    congr 1
    omega

/-- A whole block of a symbol in front of a list adds its length to a first run of that symbol, or is a run of its own. -/
theorem runsOf_replicate_append (b : Bit) (n : Nat) (bs : List Bit) :
    runsOf (List.replicate (n + 1) b ++ bs) =
      match runsOf bs with
      | [] => [⟨b, n + 1⟩]
      | r :: rs => if r.sym = b then ⟨b, r.len + (n + 1)⟩ :: rs else ⟨b, n + 1⟩ :: r :: rs := by
  induction n with
  | zero => rfl
  | succ n ih =>
    rw [List.replicate_succ, List.cons_append, runsOf, ih]
    cases runsOf bs with
    | nil => simp [consRun]
    | cons r rs => by_cases h : r.sym = b <;> simp [consRun, h, Nat.add_assoc]

/-- RUNS of the samples are RUNS of the line, stretched: no period is lost and none is cut. -/
theorem runsOf_heldFrom (he : StrictMono e) (k : Nat) (bs : List Bit) :
    runsOf (heldFrom e k bs) = heldRunsFrom e k (runsOf bs) := by
  induction bs generalizing k with
  | nil => rfl
  | cons b bs ih =>
    have hlt : e k < e (k + 1) := he (by omega)
    obtain ⟨n, hn⟩ : ∃ n, e (k + 1) - e k = n + 1 := ⟨e (k + 1) - e k - 1, by omega⟩
    rw [heldFrom, hn, runsOf_replicate_append, ih, runsOf]
    cases runsOf bs with
    | nil => simp [heldRunsFrom, consRun, hn]
    | cons r rs =>
      have hle : e (k + 1) ≤ e (k + 1 + r.len) := he.monotone (by omega)
      have hk : k + (r.len + 1) = k + 1 + r.len := by omega
      by_cases h : r.sym = b
      · simp [heldRunsFrom, consRun, h, hk]
        omega
      · simp [heldRunsFrom, consRun, h, hn]

theorem recoverBits_heldRunsFrom {spb : ℚ} {k : Nat}
    (h : ∀ j m, k ≤ j → bitPeriods spb (e (j + m) - e j) = m) (rs : List Run) :
    recoverBits spb (heldRunsFrom e k rs) = rs.flatMap fun r => List.replicate r.len r.sym := by
  induction rs generalizing k with
  | nil => rfl
  | cons r rs ih =>
    rw [heldRunsFrom, recoverBits_cons, h k r.len le_rfl, ih fun j m hj => h j m (by omega), List.flatMap_cons]

theorem runsOf_expand (bs : List Bit) : ((runsOf bs).flatMap fun r => List.replicate r.len r.sym) = bs := by
  induction bs with
  | nil => rfl
  | cons b bs ih => rw [runsOf, consRun_expand, ih]

/-- Clock recovery undoes the holding of a line. -/
theorem recoverBits_runsOf_heldFrom (he : StrictMono e) {spb : ℚ} {k : Nat}
    (h : ∀ j m, k ≤ j → bitPeriods spb (e (j + m) - e j) = m) (bs : List Bit) :
    recoverBits spb (runsOf (heldFrom e k bs)) = bs := by
  rw [runsOf_heldFrom he, recoverBits_heldRunsFrom h, runsOf_expand]

end

/-! ### The edges of a synthesized line -/

/-- The first sample of bit period `k`, for a phase in [0, 1). -/
def edge (spb phase : ℚ) (k : Nat) : Nat := ⌈((k : ℚ) - phase) * spb⌉₊

section
variable {spb phase : ℚ}

theorem edge_zero (hspb : 0 ≤ spb) (hphase : 0 ≤ phase) : edge spb phase 0 = 0 := by
  rw [edge, Nat.ceil_eq_zero]
  push_cast
  nlinarith

theorem le_edge (k : Nat) : ((k : ℚ) - phase) * spb ≤ edge spb phase k := Nat.le_ceil _

theorem edge_lt {k : Nat} (hspb : 0 ≤ spb) (hphase : phase < 1) (hk : 1 ≤ k) :
    (edge spb phase k : ℚ) < ((k : ℚ) - phase) * spb + 1 := by
  have hk' : (1 : ℚ) ≤ k := by exact_mod_cast hk
  exact Nat.ceil_lt_add_one (mul_nonneg (by linarith) hspb)

/-- A period of one sample or more starts later than the one before it. -/
theorem edge_strictMono (hspb : 1 ≤ spb) (hphase : 0 ≤ phase) (hphase' : phase < 1) : StrictMono (edge spb phase) := by
  refine strictMono_nat_of_lt_succ fun k => Nat.lt_ceil.2 ?_
  push_cast
  obtain rfl | hk := Nat.eq_zero_or_pos k
  · rw [edge_zero (by linarith) hphase]
    push_cast
    nlinarith
  · have := edge_lt (spb := spb) (phase := phase) (by linarith) hphase' hk
    linarith

/-- The two edges of a run are each less than one sample late, and one sample is at most half a period. -/
theorem bitPeriods_edge_sub (hspb : 2 ≤ spb) (hphase : 0 ≤ phase) (hphase' : phase < 1) {j : Nat} (hj : 1 ≤ j) (m : Nat) :
    bitPeriods spb (edge spb phase (j + m) - edge spb phase j) = m := by
  have hpos : 0 < spb := by linarith
  have hmono := (edge_strictMono (by linarith : 1 ≤ spb) hphase hphase').monotone (Nat.le_add_right j m)
  have lo := le_edge (spb := spb) (phase := phase) (j + m)
  have lo' := le_edge (spb := spb) (phase := phase) j
  have hi := edge_lt (spb := spb) hpos.le hphase' hj
  have hi' := edge_lt (spb := spb) hpos.le hphase' (hj.trans (Nat.le_add_right j m))
  have hround : roundHalfUp (((edge spb phase (j + m) - edge spb phase j : Nat) : ℚ) / spb) = m := by
    rw [roundHalfUp, Int.floor_eq_iff, Nat.cast_sub hmono]
    push_cast at *
    constructor
    · rw [← sub_le_iff_le_add, le_div_iff₀ hpos]
      linarith
    · rw [← lt_sub_iff_add_lt, div_lt_iff₀ hpos]
      linarith
  rw [bitPeriods, hround, Int.toNat_natCast]

/-! ### SYNTH holds each period between its edges -/

/-- The bit period of sample `n` is below `k` where the sample lies before edge `k`. -/
theorem floor_toNat_lt_iff (hspb : 0 < spb) (hphase : 0 ≤ phase) (n k : Nat) :
    ⌊(n : ℚ) / spb + phase⌋.toNat < k ↔ n < edge spb phase k := by
  rw [Int.floor_toNat, Nat.floor_lt (by positivity), edge, Nat.lt_ceil, ← lt_sub_iff_add_lt, div_lt_iff₀ hspb]

theorem synth_eq_range (line : List Bit) :
    synth line spb phase =
      (List.range (edge spb phase line.length)).map fun n : Nat =>
        levelSample (line.getD ⌊(n : ℚ) / spb + phase⌋.toNat false) := by
  simp [synth, edge, Int.ceil_toNat, ← List.map_eq_flatMap]

theorem synth_concat (hspb : 1 ≤ spb) (hphase : 0 ≤ phase) (hphase' : phase < 1) (line : List Bit) (b : Bit) :
    synth (line ++ [b]) spb phase = synth line spb phase ++
      List.replicate (edge spb phase (line.length + 1) - edge spb phase line.length) (levelSample b) := by
  have hpos : 0 < spb := by linarith
  have hle := (edge_strictMono hspb hphase hphase').monotone (Nat.le_add_right line.length 1)
  obtain ⟨c, hc⟩ := Nat.exists_eq_add_of_le hle
  rw [synth_eq_range, synth_eq_range, List.length_append, List.length_singleton, hc, List.range_add, List.map_append,
    Nat.add_sub_cancel_left, List.map_map]
  congr 1
  · refine List.map_congr_left fun n hn => ?_
    have hlt := (floor_toNat_lt_iff hpos hphase n line.length).2 (List.mem_range.1 hn)
    rw [List.getD_append _ _ _ _ hlt]
  · refine List.eq_replicate_iff.2 ⟨by simp, fun x hx => ?_⟩
    obtain ⟨i, hi, rfl⟩ := List.mem_map.1 hx
    have hi := List.mem_range.1 hi
    have hlt := (floor_toNat_lt_iff hpos hphase (edge spb phase line.length + i) (line.length + 1)).2 (by omega)
    have hge := (floor_toNat_lt_iff hpos hphase (edge spb phase line.length + i) line.length).not.2 (by omega)
    have heq : ⌊((edge spb phase line.length + i : Nat) : ℚ) / spb + phase⌋.toNat = line.length := by omega
    simp only [Function.comp, heq]
    simp

theorem synth_eq_heldFrom (hspb : 1 ≤ spb) (hphase : 0 ≤ phase) (hphase' : phase < 1) (line : List Bit) :
    synth line spb phase = (heldFrom (edge spb phase) 0 line).map levelSample := by
  induction line using List.reverseRecOn with
  | nil => simp [synth_eq_range, heldFrom, edge_zero (by linarith : 0 ≤ spb) hphase]
  | append_singleton line b ih => simp [synth_concat hspb hphase hphase', ih, heldFrom_append, heldFrom]

end
end Sys2Proof.Machine

/-! The frame of a packet (30_encoding.md R72, R73) through ASSEMBLE and VALIDATE: the stages undo PKT and the framing. -/

namespace Sys2Proof.Machine

/-! ### ASSEMBLE undoes the framing -/

@[simp] theorem charPeriods_length (b : Byte) : (charPeriods b).length = 10 := by simp [charPeriods]

/-- Adding up the eight data bits by weight gives the byte back. -/
theorem byteFrom_eq {d : List Bit} {i : Nat} {b : Byte} (h : ∀ k < 8, d.getD (i + k) false = b.getLsbD k) :
    byteFrom d i = b := by
  have bits : ∀ n ≤ 8,
      ((List.range n).map fun k => (d.getD (i + k) false).toNat * 2 ^ k).sum = b.toNat % 2 ^ n := by
    intro n hn
    induction n with
    | zero => simp [Nat.mod_one]
    | succ n ih =>
      rw [List.range_succ, List.map_append, List.sum_append, ih (by omega), List.map_singleton, List.sum_singleton,
        h n (by omega), BitVec.getLsbD, Nat.toNat_testBit, Nat.mod_pow_succ, Nat.mul_comm]
  refine BitVec.eq_of_toNat_eq ?_
  rw [byteFrom, bits 8 le_rfl, BitVec.toNat_ofNat]
  omega

/-- Data bit `k` of character `i` stands `k` periods after that character's start bit. -/
theorem getD_flatMap_charPeriods {bs : List Byte} {i k : Nat} (hi : i < bs.length) (hk : k < 8) (rest : List Bit) :
    (bs.flatMap charPeriods ++ rest).getD (1 + (10 * i + k)) false = (bs.getD i 0).getLsbD k := by
  induction bs generalizing i with
  | nil => cases hi
  | cons b bs ih =>
    rw [List.flatMap_cons, List.append_assoc]
    cases i with
    | zero =>
      rw [List.getD_append _ _ _ _ (by rw [charPeriods_length]; omega)]
      interval_cases k <;> rfl
    | succ i =>
      have hidx : 1 + (10 * (i + 1) + k) - (charPeriods b).length = 1 + (10 * i + k) := by
        rw [charPeriods_length]; omega
      rw [List.getD_append_right _ _ _ _ (by rw [charPeriods_length]; omega), hidx, ih (by simpa using hi),
        List.getD_cons_succ]

theorem packetByte_framePeriods (p : Packet) (rest : List Bit) {i : Nat} (hi : i < 9) :
    packetByte ((framePeriods p ++ rest).drop 1) i = (packetBytes p).getD i 0 := by
  refine byteFrom_eq fun k hk => ?_
  rw [List.getD_eq_getElem?_getD, List.getElem?_drop, ← List.getD_eq_getElem?_getD]
  exact getD_flatMap_charPeriods hi hk rest

theorem readPacket_framePeriods (p : Packet) (rest : List Bit) : readPacket ((framePeriods p ++ rest).drop 1) = p := by
  simp [readPacket, packetByte_framePeriods, packetBytes, -List.drop_one]

theorem framePeriods_length (p : Packet) : (framePeriods p).length = 90 := by
  simp [framePeriods, packetBytes]

/-- A frame and one period more are read as the packet that was framed. -/
theorem assemble_framePeriods (p : Packet) {rest : List Bit} (h : 1 ≤ rest.length) :
    assemble (framePeriods p ++ rest) = .ok p := by
  have hlen : ¬(framePeriods p ++ rest).length < minStreamPeriods := by
    rw [List.length_append, framePeriods_length, minStreamPeriods]; omega
  rw [assemble, if_neg hlen, readPacket_framePeriods]

/-! ### VALIDATE undoes PKT -/

theorem toNat_digitChar (d : Fin 10) : (digitChar d).toNat = 48 + d.val := by
  simp [digitChar, digitOffset]; omega

theorem isDigitByte_digitChar (d : Fin 10) : isDigitByte (digitChar d) = true := by
  rw [isDigitByte, decide_eq_true_iff, toNat_digitChar, digitOffset]
  omega

theorem digitValue_digitChar (d : Fin 10) : digitValue (digitChar d) = d := by
  have h := digitValue_val (isDigitByte_digitChar d)
  rw [toNat_digitChar] at h
  omega

theorem digitBytes_pktOf (c : Byte) (d : Digits) :
    digitBytes (pktOf c d) = [digitChar d.d0, digitChar d.d1, digitChar d.d2, digitChar d.d3, digitChar d.d4] := rfl

theorem okDigits_pktOf (c : Byte) (d : Digits) : okDigits (pktOf c d) = true := by
  simp [okDigits, digitBytes_pktOf, isDigitByte_digitChar]

/-- The digit sum is at most 45, so the checksum byte of PKT does not wrap. -/
theorem okSum_pktOf (c : Byte) (d : Digits) : okSum (pktOf c d) = true := by
  have hsum : (pktOf c d).checksum.toNat = 64 + (d.d0.val + d.d1.val + d.d2.val + d.d3.val + d.d4.val) := by
    simp [pktOf, checksumOffset]; omega
  rw [okSum, decide_eq_true_iff, digitSum, digitBytes_pktOf, hsum]
  simp [toNat_digitChar, digitOffset, checksumOffset]
  omega

theorem signalOf_pktOf (c : Byte) (d : Digits) : signalOf (pktOf c d) = ⟨c, d⟩ := by
  have h := digitValue_digitChar
  simp only [digitChar] at h
  simp [signalOf, pktOf, h]

theorem validate_pktOf {c : Byte} (hc : c ∈ statusCodes) (d : Digits) : validate (pktOf c d) = .ok ⟨c, d⟩ := by
  have hstatus : okStatus (pktOf c d) = true := decide_eq_true hc
  have hterm : okTerm (pktOf c d) = true := rfl
  rw [validate, hstatus, okDigits_pktOf, okSum_pktOf, hterm, signalOf_pktOf]
  rfl

/-! ### SAMPLE, RESOLVE and SYNC on a synthesized buffer -/

theorem sampleBuffer_levelSample (bs : List Bit) : sampleBuffer (bs.map levelSample) = bs.map .bit := by
  rw [sampleBuffer, List.map_map]
  refine List.map_congr_left fun b _ => ?_
  cases b with
  | false => simp [levelSample, sampleSymbol, classify_of_pos]
  | true =>
    have hneg : (-1 / 2 : ℚ) < 0 := by norm_num
    simp [levelSample, sampleSymbol, classify_of_neg hneg]

/-- A line without X resolves to itself under either policy. -/
theorem resolve_bits (policy : ZeroPolicy) (bs : List Bit) : resolve policy (bs.map .bit) = .ok bs := by
  cases policy with
  | abort => exact resolveAbort_bits 0 bs
  | hold => exact congrArg Except.ok (resolveHold_bits true bs)

/-- The first space after marks enough to arm is the synchronisation point. -/
theorem syncScan_replicate_true {spb : ℚ} (n i count : Nat) (armed : Bool) (rest : List Bit)
    (h : arms spb (count + (n + 1)) = true) :
    syncScan spb i count armed (List.replicate (n + 1) true ++ false :: rest) = some (i + (n + 1)) := by
  induction n generalizing i count armed with
  | zero => simp_all [syncScan]
  | succ n ih =>
    have hcount : count + 1 + (n + 1) = count + (n + 1 + 1) := by omega
    have hindex : i + 1 + (n + 1) = i + (n + 1 + 1) := by omega
    rw [List.replicate_succ, List.cons_append, syncScan, ih _ _ _ (hcount ▸ h), hindex]

theorem sync_replicate_true {spb : ℚ} (hspb : 0 ≤ spb) {n : Nat} (h : 9 * spb < n) (rest : List Bit) :
    sync spb (List.replicate n true ++ false :: rest) = .ok n := by
  obtain ⟨m, rfl⟩ : ∃ m, n = m + 1 := by
    refine Nat.exists_eq_succ_of_ne_zero fun hn => ?_
    subst hn
    push_cast at h
    linarith
  have harms : arms spb (0 + (m + 1)) = true := by rwa [Nat.zero_add, arms_iff]
  rw [sync, syncScan_replicate_true m 0 0 false rest harms, Nat.zero_add]

/-! ### The whole pipeline on a synthesized frame -/

section
variable {e : Nat → Nat}

theorem heldFrom_lineOf (he : Monotone e) (hzero : e 0 = 0) (p : Packet) (pre post : Nat) :
    heldFrom e 0 (lineOf p pre post) =
      List.replicate (e pre) true ++ heldFrom e pre (framePeriods p ++ List.replicate post true) := by
  rw [lineOf, List.append_assoc, heldFrom_append, heldFrom_replicate he, List.length_replicate, Nat.zero_add, hzero,
    Nat.sub_zero]

/-- A frame begins with a start bit, and that is held for a sample at least. -/
theorem heldFrom_framePeriods_head (he : StrictMono e) (k : Nat) (p : Packet) (bs : List Bit) :
    ∃ rest, heldFrom e k (framePeriods p ++ bs) = false :: rest := by
  obtain ⟨bits, hframe⟩ : ∃ bits, framePeriods p ++ bs = false :: bits := ⟨_, rfl⟩
  have hlt : e k < e (k + 1) := he (by omega)
  obtain ⟨n, hn⟩ := Nat.exists_eq_succ_of_ne_zero (Nat.sub_ne_zero_of_lt hlt)
  rw [hframe, heldFrom, hn, List.replicate_succ]
  exact ⟨_, rfl⟩

end

section
variable {spb phase : ℚ} (hspb : 2 ≤ spb) (hphase : 0 ≤ phase) (hphase' : phase < 1)
include hspb hphase'

/-- Ten periods of idle hold more than nine periods' samples, whatever the phase cuts off the first. -/
theorem edge_arms {pre : Nat} (hpre : 10 ≤ pre) : 9 * spb < edge spb phase pre := by
  have hpre' : (10 : ℚ) ≤ pre := by exact_mod_cast hpre
  calc 9 * spb < ((pre : ℚ) - phase) * spb := by nlinarith
    _ ≤ edge spb phase pre := le_edge pre

include hphase

theorem decodeResolved_heldFrom {c : Byte} (d : Digits) {pre post : Nat} (hc : c ∈ statusCodes) (hpre : 10 ≤ pre)
    (hpost : 1 ≤ post) :
    decodeResolved spb (heldFrom (edge spb phase) 0 (lineOf (pktOf c d) pre post)) = .ok ⟨c, d⟩ := by
  have hmono : StrictMono (edge spb phase) := edge_strictMono (by linarith) hphase hphase'
  have hzero : edge spb phase 0 = 0 := edge_zero (by linarith) hphase
  obtain ⟨rest, hstart⟩ := heldFrom_framePeriods_head hmono pre (pktOf c d) (List.replicate post true)
  have hsync : sync spb (List.replicate (edge spb phase pre) true ++ false :: rest) = .ok (edge spb phase pre) :=
    sync_replicate_true (by linarith) (edge_arms hspb hphase' hpre) rest
  have hbits : recoverBits spb (runsOf (false :: rest)) = framePeriods (pktOf c d) ++ List.replicate post true := by
    rw [← hstart]
    exact recoverBits_runsOf_heldFrom hmono (fun j m hj => bitPeriods_edge_sub hspb hphase hphase' (by omega) m) _
  have hpacket : assemble (framePeriods (pktOf c d) ++ List.replicate post true) = .ok (pktOf c d) :=
    assemble_framePeriods _ (by simpa using hpost)
  rw [heldFrom_lineOf hmono.monotone hzero, hstart]
  simp only [decodeResolved, hsync, decodeSuffix, List.drop_left' List.length_replicate, hbits, hpacket]
  exact validate_pktOf hc d

theorem pipe_synth (policy : ZeroPolicy) {c : Byte} (d : Digits) {pre post : Nat} (hc : c ∈ statusCodes)
    (hpre : 10 ≤ pre) (hpost : 1 ≤ post) :
    pipe spb policy (synth (lineOf (pktOf c d) pre post) spb phase) = .ok ⟨c, d⟩ := by
  rw [synth_eq_heldFrom (by linarith) hphase hphase', pipe, sampleBuffer_levelSample, resolve_bits]
  exact decodeResolved_heldFrom hspb hphase hphase' d hc hpre hpost

end

theorem execProcessBuffer_of_pipe_ok {s : State} {b : Block} {buf : List Sample} {sig : Signal} (hb : s.block = some b)
    (hcap : b.capturing = true) (hfits : bufferFits s buf = true) (hpipe : pipe b.spb b.zeroPolicy buf = .ok sig) :
    execProcessBuffer buf s = accept s b sig := by
  simp [execProcessBuffer, onBuffer, onBlock_some hb, hfits, hcap, hpipe]

/-- Settles O55: the pipeline gives back the Signal of the synthesized frame, and PROCESS_BUFFER accepts it. -/
theorem synthesizedFrameIsApplied : Obligations.SynthesizedFrameIsApplied :=
  fun _ b _ _ d _ _ hb hcap hspb hphase hphase' hc hpre hpost hfits =>
    execProcessBuffer_of_pipe_ok hb hcap hfits (pipe_synth hspb hphase hphase' b.zeroPolicy d hc hpre hpost)

end Sys2Proof.Machine

/-! SAMPLE and RESOLVE as probes (40_sampler_sync.md R100 to R104): each ends with its stage's own result, so the
statements are about the stages, symbol by symbol. -/

namespace Sys2Proof.Machine

/-! ### What the three sampler probes end with -/

section
variable {s : State} {b : Block}

theorem execSample_of_fits {buf : List Sample} (hb : s.block = some b) (hfits : bufferFits s buf = true) :
    execSample buf s = finish s (.symbols (sampleBuffer buf)) := by
  rw [execSample, onBuffer, onBlock_some hb, if_pos hfits]

theorem execResolve_of_block (hb : s.block = some b) (sym : List Symbol) :
    execResolve sym s = settle s ((resolve b.zeroPolicy sym).map .bits) := onBlock_some hb

theorem execSync_of_block (hb : s.block = some b) (rsym : List Bit) :
    execSync rsym s = settle s ((sync b.spb rsym).map .index) := onBlock_some hb

end

/-! ### SAMPLE -/

theorem sampleBuffer_getElem? {buf : List Sample} {i : Nat} {x : Sample} (hx : buf[i]? = some x) :
    (sampleBuffer buf)[i]? = some (sampleSymbol x) := by
  simp [sampleBuffer, hx]

theorem sampleSymbol_of_neg {x : ℚ} (h : x < 0) : sampleSymbol (.finite x) = .bit true := by
  rw [sampleSymbol, classify_of_neg h]

theorem sampleSymbol_of_pos {x : ℚ} (h : 0 < x) : sampleSymbol (.finite x) = .bit false := by
  rw [sampleSymbol, classify_of_pos h]

theorem sampleSymbol_zero : sampleSymbol (.finite 0) = .indet := by
  simp [sampleSymbol, classify]

/-- Settles O24: a sample's symbol is read off its class, and the class off its sign. -/
theorem sampleClassifiesBySign : Obligations.SampleClassifiesBySign := by
  intro s b buf hb hfits
  refine ⟨sampleBuffer buf, execSample_of_fits hb hfits, sampleBuffer_length buf, ?finite, ?negZero, ?nan,
    ?posInf, ?negInf⟩
  case finite =>
    intro i x hx
    rw [sampleBuffer_getElem? hx]
    refine ⟨fun hneg => by rw [sampleSymbol_of_neg hneg], fun hpos => by rw [sampleSymbol_of_pos hpos], ?_⟩
    rintro rfl
    rw [sampleSymbol_zero]
  all_goals exact fun _ => sampleBuffer_getElem?

/-! ### RESOLVE under ABORT -/

theorem resolveAbort_of_first_indet {sym : List Symbol} {i : Nat} (start : Nat) (hx : sym[i]? = some .indet)
    (hfirst : ∀ j, j < i → sym[j]? ≠ some .indet) : resolveAbort start sym = .error (.indeterminate (start + i)) := by
  induction sym generalizing i start with
  | nil => simp at hx
  | cons x rest ih =>
    cases i with
    | zero =>
      obtain rfl : x = .indet := by simpa using hx
      rfl
    | succ i =>
      cases x with
      | indet => exact absurd rfl (hfirst 0 (by omega))
      | bit v =>
        have hrest : ∀ j, j < i → rest[j]? ≠ some .indet := fun j hj => hfirst (j + 1) (by omega)
        have hindex : start + 1 + i = start + (i + 1) := by omega
        rw [resolveAbort, ih (start + 1) hx hrest, hindex]

/-- Settles O26: the scan counts from 0 up to the first X, and copies a sequence without one. -/
theorem resolveAbortStopsAtFirstX : Obligations.ResolveAbortStopsAtFirstX := by
  refine ⟨fun s b sym i hb habort hx hfirst => ?_, fun s b bs hb _ => ?_⟩
  · have hresolve : resolve b.zeroPolicy sym = .error (.indeterminate i) := by
      rw [habort, resolve, resolveAbort_of_first_indet 0 hx hfirst, Nat.zero_add]
    exact (execResolve_of_block hb sym).trans (by rw [hresolve]; rfl)
  · exact (execResolve_of_block hb _).trans (by rw [resolve_bits]; rfl)

/-! ### RESOLVE under HOLD -/

@[simp] theorem resolveHold_length (prev : Bit) (sym : List Symbol) : (resolveHold prev sym).length = sym.length := by
  induction sym generalizing prev with
  | nil => rfl
  | cons x rest ih => cases x <;> simp [resolveHold, ih]

theorem resolveHold_getElem?_of_bit (prev : Bit) {sym : List Symbol} {i : Nat} {v : Bit}
    (hv : sym[i]? = some (.bit v)) : (resolveHold prev sym)[i]? = some v := by
  induction sym generalizing prev i with
  | nil => simp at hv
  | cons x rest ih =>
    cases i with
    | zero =>
      obtain rfl : x = .bit v := by simpa using hv
      rfl
    | succ i => cases x <;> exact ih _ hv

/-- With the symbol before the first put in front of the output, every X repeats its predecessor there. -/
theorem resolveHold_getElem?_of_indet (prev : Bit) {sym : List Symbol} {i : Nat} (hx : sym[i]? = some .indet) :
    (resolveHold prev sym)[i]? = (prev :: resolveHold prev sym)[i]? := by
  induction sym generalizing prev i with
  | nil => simp at hx
  | cons x rest ih =>
    cases i with
    | zero =>
      obtain rfl : x = .indet := by simpa using hx
      rfl
    | succ i => cases x <;> exact ih _ hx

/-- Settles O27: RESOLVE starts with mark as the symbol before the first. -/
theorem resolveHoldContinues : Obligations.ResolveHoldContinues := by
  intro s b sym hb hhold
  have hresolve : resolve b.zeroPolicy sym = .ok (resolveHold true sym) := by rw [hhold, resolve]
  exact ⟨resolveHold true sym, (execResolve_of_block hb sym).trans (by rw [hresolve]; rfl), resolveHold_length true sym,
    fun _ _ => resolveHold_getElem?_of_bit true, fun _ => resolveHold_getElem?_of_indet true,
    resolveHold_getElem?_of_indet true⟩

end Sys2Proof.Machine

/-! SYNC (40_sampler_sync.md R110 to R115): a resolved sequence is runs of marks parted by spaces; a run that does not
arm is forgotten with the space after it, and the space after the first run that arms is the synchronisation point. -/

namespace Sys2Proof.Machine

/-! ### The arming comparison -/

theorem arms_iff_num_den (spb : ℚ) (n : Nat) : arms spb n = true ↔ 9 * spb.num < (n : Int) * (spb.den : Int) := by
  have hden : (0 : ℚ) < spb.den := by exact_mod_cast spb.den_pos
  calc arms spb n = true ↔ 9 * spb < (n : ℚ) := arms_iff spb n
    _ ↔ 9 * spb * spb.den < (n : ℚ) * spb.den := (mul_lt_mul_iff_left₀ hden).symm
    _ ↔ 9 * (spb.num : ℚ) < (n : ℚ) * spb.den := by rw [mul_assoc, Rat.mul_den_eq_num]
    _ ↔ 9 * spb.num < (n : Int) * (spb.den : Int) := by exact_mod_cast Iff.rfl

theorem arms_iff_floor (spb : ℚ) (n : Nat) : arms spb n = true ↔ ⌊9 * spb⌋ + 1 ≤ (n : Int) := by
  rw [arms_iff, Int.add_one_le_iff, Int.floor_lt, Int.cast_natCast]

theorem arms_eq_false_iff (spb : ℚ) (n : Nat) : arms spb n = false ↔ (n : ℚ) ≤ 9 * spb := by
  rw [← Bool.not_eq_true, arms_iff, not_lt]

/-- Settles O29: both integer forms are the comparison `9 * spb < n` cleared of its denominator or rounded down. -/
theorem armingIsStrictAndExact : Obligations.ArmingIsStrictAndExact :=
  ⟨arms_iff_num_den, arms_iff_floor, fun spb n h => (arms_eq_false_iff spb n).2 h.le,
    by norm_num [arms_iff, arms_eq_false_iff]⟩

/-! ### The scan over one run of marks -/

theorem syncScan_add (spb : ℚ) (rsym : List Bit) (i n count : Nat) (armed : Bool) :
    syncScan spb (i + n) count armed rsym = (syncScan spb i count armed rsym).map (· + n) := by
  induction n with
  | zero => simp
  | succ n ih =>
    rw [← Nat.add_assoc, syncScan_succ, ih, Option.map_map]
    rfl

theorem syncScan_unarmed_run {spb : ℚ} {n count : Nat} (h : arms spb (count + n) = false) (i : Nat) (rest : List Bit) :
    syncScan spb i count false (List.replicate n true ++ false :: rest) = syncScan spb (i + (n + 1)) 0 false rest := by
  induction n generalizing i count with
  | zero => simp [syncScan]
  | succ n ih =>
    have hcount : count + 1 + n = count + (n + 1) := by omega
    have hindex : i + 1 + (n + 1) = i + (n + 1 + 1) := by omega
    have hnot : arms spb (count + 1) = false := by
      rw [Bool.eq_false_iff] at h ⊢
      exact mt (arms_mono (by omega)) h
    rw [List.replicate_succ, List.cons_append, syncScan, hnot, Bool.or_false, ih (hcount ▸ h), hindex]

theorem syncScan_glitch {spb : ℚ} {n : Nat} (h : arms spb n = false) (rest : List Bit) :
    syncScan spb 0 0 false (List.replicate n true ++ false :: rest) =
      (syncScan spb 0 0 false rest).map (· + (n + 1)) := by
  rw [syncScan_unarmed_run (by rwa [Nat.zero_add]), syncScan_add]

theorem syncScan_armed_run {spb : ℚ} {n : Nat} (h : arms spb n = true) (hn : 0 < n) (rest : List Bit) :
    syncScan spb 0 0 false (List.replicate n true ++ false :: rest) = some n := by
  obtain ⟨m, rfl⟩ := Nat.exists_eq_succ_of_ne_zero hn.ne'
  rw [syncScan_replicate_true m 0 0 false rest (by rwa [Nat.zero_add]), Nat.zero_add]

/-- Settles O30: an unarmed run leaves the counter and the flag as at the start, one that arms ends the scan. -/
theorem glitchRestartsArming : Obligations.GlitchRestartsArming :=
  fun _ _ rest => ⟨fun h => syncScan_glitch h rest, fun h hn => syncScan_armed_run h hn rest⟩

theorem syncScan_replicate_eq_none (spb : ℚ) (n i count : Nat) (armed : Bool) :
    syncScan spb i count armed (List.replicate n true) = none := by
  induction n generalizing i count armed with
  | zero => rfl
  | succ n ih => rw [List.replicate_succ, syncScan, ih]

/-! ### The synchronisation points of a run of marks, a space and the rest -/

section
variable {spb : ℚ} {n : Nat} {rest : List Bit}

theorem getElem?_run_lt {j : Nat} (hj : j < n) (tail : List Bit) : (List.replicate n true ++ tail)[j]? = some true := by
  rw [List.getElem?_append_left (by rwa [List.length_replicate]), List.getElem?_replicate, if_pos hj]

theorem getElem?_run_space : (List.replicate n true ++ false :: rest)[n]? = some false := by
  simp

theorem getElem?_run_rest (j : Nat) : (List.replicate n true ++ false :: rest)[j + (n + 1)]? = rest[j]? := by
  rw [List.getElem?_append_right (by rw [List.length_replicate]; omega), List.length_replicate,
    show j + (n + 1) - n = j + 1 by omega, List.getElem?_cons_succ]

theorem not_syncPoint_of_mark {rsym : List Bit} {k : Nat} (h : rsym[k]? = some true) : ¬SyncPoint spb rsym k := by
  rintro ⟨hspace, -⟩
  simp [h] at hspace

theorem not_syncPoint_replicate (k : Nat) : ¬SyncPoint spb (List.replicate n true) k := by
  rintro ⟨hspace, -⟩
  simp [List.getElem?_replicate] at hspace

theorem syncPoint_run_iff_arms :
    SyncPoint spb (List.replicate n true ++ false :: rest) n ↔ arms spb n = true := by
  constructor
  · rintro ⟨-, c, harms, hc, -, -⟩
    exact arms_mono hc ((arms_iff spb c).2 harms)
  · intro h
    exact ⟨getElem?_run_space, n, (arms_iff spb n).1 h, le_rfl, fun j _ hj => getElem?_run_lt hj _, .inl rfl⟩

/-- Beyond the space, the run of marks before a synchronisation point lies beyond the space too. -/
theorem syncPoint_run_add_iff (k : Nat) :
    SyncPoint spb (List.replicate n true ++ false :: rest) (k + (n + 1)) ↔ SyncPoint spb rest k := by
  unfold SyncPoint
  rw [getElem?_run_rest]
  refine and_congr_right fun _ => exists_congr fun c => and_congr_right fun _ => ?_
  constructor
  · rintro ⟨-, hmarks, hstart⟩
    have hck : c ≤ k := by
      by_contra hlt
      have hmark := hmarks n (by omega) (by omega)
      simp at hmark
    refine ⟨hck, fun j hj hjk => ?_, ?_⟩
    · rw [← getElem?_run_rest (n := n)]
      exact hmarks _ (by omega) (by omega)
    · obtain heq | hlt := Nat.eq_or_lt_of_le hck
      · exact .inl heq.symm
      · have hstart := hstart.resolve_left (by omega)
        rw [show k + (n + 1) - c - 1 = k - c - 1 + (n + 1) by omega, getElem?_run_rest] at hstart
        exact .inr hstart
  · rintro ⟨hck, hmarks, hstart⟩
    refine ⟨by omega, fun j hj hjk => ?_, .inr ?_⟩
    · rw [show j = j - (n + 1) + (n + 1) by omega, getElem?_run_rest]
      exact hmarks _ (by omega) (by omega)
    · obtain heq | hlt := Nat.eq_or_lt_of_le hck
      · rw [show k + (n + 1) - c - 1 = n by omega, getElem?_run_space]
      · rw [show k + (n + 1) - c - 1 = k - c - 1 + (n + 1) by omega, getElem?_run_rest]
        exact hstart.resolve_left (by omega)

end

/-! ### The scan finds the first synchronisation point -/

/-- `o` is the least synchronisation point of the sequence, and `none` where it has none. -/
def IsFirstSyncPoint (spb : ℚ) (rsym : List Bit) : Option Nat → Prop
  | some k => SyncPoint spb rsym k ∧ ∀ j, j < k → ¬SyncPoint spb rsym j
  | none => ∀ k, ¬SyncPoint spb rsym k

theorem IsFirstSyncPoint.unique {spb : ℚ} {rsym : List Bit} {o o' : Option Nat} (h : IsFirstSyncPoint spb rsym o)
    (h' : IsFirstSyncPoint spb rsym o') : o = o' := by
  match o, o' with
  | none, none => rfl
  | none, some k => exact absurd h'.1 (h k)
  | some k, none => exact absurd h.1 (h' k)
  | some k, some k' =>
    have hle : k ≤ k' := not_lt.1 fun hlt => h.2 k' hlt h'.1
    have hge : k' ≤ k := not_lt.1 fun hlt => h'.2 k hlt h.1
    rw [le_antisymm hle hge]

theorem isFirstSyncPoint_armed_run {spb : ℚ} {n : Nat} (h : arms spb n = true) (rest : List Bit) :
    IsFirstSyncPoint spb (List.replicate n true ++ false :: rest) (some n) :=
  ⟨syncPoint_run_iff_arms.2 h, fun _ hj => not_syncPoint_of_mark (getElem?_run_lt hj _)⟩

theorem IsFirstSyncPoint.glitch {spb : ℚ} {n : Nat} {rest : List Bit} {o : Option Nat} (hn : arms spb n = false)
    (h : IsFirstSyncPoint spb rest o) :
    IsFirstSyncPoint spb (List.replicate n true ++ false :: rest) (o.map (· + (n + 1))) := by
  have early : ∀ k ≤ n, ¬SyncPoint spb (List.replicate n true ++ false :: rest) k := by
    intro k hk
    rcases Nat.eq_or_lt_of_le hk with rfl | hlt
    · simp [syncPoint_run_iff_arms, hn]
    · exact not_syncPoint_of_mark (getElem?_run_lt hlt _)
  have late : ∀ k, ¬SyncPoint spb rest (k - (n + 1)) → ¬SyncPoint spb (List.replicate n true ++ false :: rest) k := by
    intro k hk
    by_cases hkn : k ≤ n
    · exact early k hkn
    · rwa [show k = k - (n + 1) + (n + 1) by omega, syncPoint_run_add_iff]
  match o with
  | none => exact fun k => late k (h _)
  | some m =>
    refine ⟨(syncPoint_run_add_iff m).2 h.1, fun j (hj : j < m + (n + 1)) => ?_⟩
    by_cases hjn : j ≤ n
    · exact early j hjn
    · exact late j (h.2 _ (by omega))

/-- `n` is the run of marks read so far; a space ends it. -/
theorem isFirstSyncPoint_run_append {spb : ℚ} (hspb : 0 ≤ spb) (n : Nat) (rsym : List Bit) :
    IsFirstSyncPoint spb (List.replicate n true ++ rsym) (syncScan spb 0 0 false (List.replicate n true ++ rsym)) := by
  induction rsym generalizing n with
  | nil =>
    rw [List.append_nil, syncScan_replicate_eq_none]
    exact not_syncPoint_replicate
  | cons v rest ih =>
    cases v with
    | true =>
      have hjoin : List.replicate n true ++ true :: rest = List.replicate (n + 1) true ++ rest := by
        rw [List.replicate_succ', List.append_assoc, List.singleton_append]
      rw [hjoin]
      exact ih (n + 1)
    | false =>
      cases harms : arms spb n with
      | false =>
        rw [syncScan_glitch harms]
        exact IsFirstSyncPoint.glitch harms (ih 0)
      | true =>
        have hpos : (0 : ℚ) < n := lt_of_le_of_lt (by positivity) ((arms_iff spb n).1 harms)
        rw [syncScan_armed_run harms (by exact_mod_cast hpos)]
        exact isFirstSyncPoint_armed_run harms rest

theorem syncScan_eq_of_isFirst {spb : ℚ} (hspb : 0 ≤ spb) {rsym : List Bit} {o : Option Nat}
    (h : IsFirstSyncPoint spb rsym o) : syncScan spb 0 0 false rsym = o :=
  (isFirstSyncPoint_run_append hspb 0 rsym).unique h

/-- Settles O28: the scan gives the least synchronisation point, and there is only one answer that is. -/
theorem syncFindsLeastSyncPoint : Obligations.SyncFindsLeastSyncPoint := by
  intro s b rsym hb hspb
  refine ⟨fun k hk hleast => ?_, fun hnone => ?_⟩
  · have hscan : syncScan b.spb 0 0 false rsym = some k := syncScan_eq_of_isFirst hspb.le ⟨hk, hleast⟩
    exact (execSync_of_block hb rsym).trans (by rw [sync, hscan]; rfl)
  · have hscan : syncScan b.spb 0 0 false rsym = none := syncScan_eq_of_isFirst hspb.le hnone
    exact (execSync_of_block hb rsym).trans (by rw [sync, hscan]; rfl)

end Sys2Proof.Machine

/-! The runs of a frame (40_sampler_sync.md R116): a character begins with a space and ends with a mark, so no run
crosses from one character into the next, and the runs of a frame are the runs of its characters. -/

namespace Sys2Proof.Machine

theorem consRun_append (b : Bit) {rs : List Run} (h : rs ≠ []) (rs' : List Run) :
    consRun b (rs ++ rs') = consRun b rs ++ rs' := by
  cases rs with
  | nil => exact absurd rfl h
  | cons r rs => by_cases hr : r.sym = b <;> simp [consRun, hr]

theorem runsOf_ne_nil (b : Bit) (bs : List Bit) : runsOf (b :: bs) ≠ [] := by
  obtain ⟨n, rest, h⟩ := consRun_head b (runsOf bs)
  simp [runsOf, h]

/-- A mark followed by a space is an edge, and RUNS cuts there. -/
theorem runsOf_cut (bs bs' : List Bit) :
    runsOf (bs ++ [true] ++ false :: bs') = runsOf (bs ++ [true]) ++ runsOf (false :: bs') := by
  induction bs with
  | nil =>
    obtain ⟨n, rest, h⟩ : ∃ n rest, runsOf (false :: bs') = ⟨false, n + 1⟩ :: rest := consRun_head false (runsOf bs')
    rw [List.nil_append, List.singleton_append, runsOf, h]
    rfl
  | cons b bs ih =>
    have hne : runsOf (bs ++ [true]) ≠ [] := by cases bs <;> exact runsOf_ne_nil _ _
    rw [List.cons_append, List.cons_append, runsOf, ih, consRun_append b hne]
    rfl

theorem runsOf_flatMap_charPeriods (bytes : List Byte) :
    runsOf (bytes.flatMap charPeriods) = bytes.flatMap fun b => runsOf (charPeriods b) := by
  induction bytes with
  | nil => rfl
  | cons b bytes ih =>
    cases bytes with
    | nil => simp
    | cons b' bytes =>
      calc runsOf ((b :: b' :: bytes).flatMap charPeriods)
          = runsOf (charPeriods b) ++ runsOf ((b' :: bytes).flatMap charPeriods) :=
            runsOf_cut (false :: (List.range 8).map fun k => b.getLsbD k) _
        _ = (b :: b' :: bytes).flatMap fun b => runsOf (charPeriods b) := by rw [ih]; rfl

theorem mem_runsOf_framePeriods {r : Run} {p : Packet} :
    r ∈ runsOf (framePeriods p) ↔ ∃ b ∈ packetBytes p, r ∈ runsOf (charPeriods b) := by
  rw [framePeriods, runsOf_flatMap_charPeriods, List.mem_flatMap]

/-- No run of marks in the character of this byte is longer than five bit periods. -/
abbrev MarkRunsShort (b : Byte) : Prop := ∀ r ∈ runsOf (charPeriods b), r.sym = true → r.len ≤ 5

/-- Of the bytes up to 109, the largest checksum, only 63 has six marks in a row. -/
theorem markRunsShort_of_lt {b : Byte} (hlt : b.toNat < 110) (hne : b.toNat ≠ 63) : MarkRunsShort b := by
  have scan : ∀ n < 110, n ≠ 63 → MarkRunsShort (BitVec.ofNat 8 n) := by decide
  simpa using scan b.toNat hlt hne

theorem markRunsShort_statusCode : ∀ c ∈ statusCodes, MarkRunsShort c := by decide

theorem markRunsShort_digitChar (d : Fin 10) : MarkRunsShort (digitChar d) :=
  markRunsShort_of_lt (by rw [toNat_digitChar]; omega) (by rw [toNat_digitChar]; omega)

theorem toNat_checksum_pktOf (c : Byte) (d : Digits) :
    (pktOf c d).checksum.toNat = 64 + (d.d0.val + d.d1.val + d.d2.val + d.d3.val + d.d4.val) := by
  simp [pktOf, checksumOffset]
  omega

theorem markRunsShort_checksum (c : Byte) (d : Digits) : MarkRunsShort (pktOf c d).checksum :=
  markRunsShort_of_lt (by rw [toNat_checksum_pktOf]; omega) (by rw [toNat_checksum_pktOf]; omega)

theorem markRunsShort_of_mem_packetBytes {c : Byte} (hc : c ∈ statusCodes) (d : Digits) :
    ∀ b ∈ packetBytes (pktOf c d), MarkRunsShort b := by
  have hbytes : packetBytes (pktOf c d) = [c, digitChar d.d0, digitChar d.d1, digitChar d.d2, digitChar d.d3,
      digitChar d.d4, (pktOf c d).checksum, lineFeed, carriageReturn] := rfl
  have hlineFeed : MarkRunsShort lineFeed := by decide
  have hcarriageReturn : MarkRunsShort carriageReturn := by decide
  simp only [hbytes, List.forall_mem_cons]
  exact ⟨markRunsShort_statusCode c hc, markRunsShort_digitChar _, markRunsShort_digitChar _, markRunsShort_digitChar _,
    markRunsShort_digitChar _, markRunsShort_digitChar _, markRunsShort_checksum c d, hlineFeed, hcarriageReturn,
    List.forall_mem_nil _⟩

theorem checksum_of_digitSum_31 (c : Byte) {d : Digits}
    (h : d.d0.val + d.d1.val + d.d2.val + d.d3.val + d.d4.val = 31) : (pktOf c d).checksum = 0x5F := by
  refine BitVec.eq_of_toNat_eq ?_
  rw [toNat_checksum_pktOf, h]
  rfl

/-- Settles O57: no byte of a packet has more than five marks in a row, and the checksum byte 0x5F has five. -/
theorem markRunsInFrameAreShort : Obligations.MarkRunsInFrameAreShort := by
  refine ⟨fun c d hc r hr hmark => ?_, fun c d _ hsum => ?_⟩
  · obtain ⟨b, hb, hrun⟩ := mem_runsOf_framePeriods.1 hr
    exact markRunsShort_of_mem_packetBytes hc d b hb r hrun hmark
  · have hfive : (⟨true, 5⟩ : Run) ∈ runsOf (charPeriods 0x5F) := by decide
    exact mem_runsOf_framePeriods.2 ⟨0x5F, by simp [packetBytes, checksum_of_digitSum_31 c hsum], hfive⟩

end Sys2Proof.Machine

/-! Clock recovery (41_clock_recovery.md): RUNS gives the one run list of a sequence in which neighbours differ, and
RECOVER rounds each run of it to bit periods alone, with no regard to its neighbours. -/

namespace Sys2Proof.Machine

/-! ### What the two clock recovery probes end with -/

section
variable {s : State} {b : Block}

theorem execRuns_of_block (hb : s.block = some b) (seq : List Bit) :
    execRuns seq s = finish s (.runs (runsOf seq)) := onBlock_some hb

theorem legalRuns_iff {rs : List Run} : legalRuns rs = true ↔ ∀ r ∈ rs, 1 ≤ r.len := by
  simp [legalRuns]

theorem execRecover_of_legal (hb : s.block = some b) {rs : List Run} (h : ∀ r ∈ rs, 1 ≤ r.len) :
    execRecover rs s = finish s (.bits (recoverBits b.spb rs)) := by
  rw [execRecover, onBlock_some hb, if_pos (legalRuns_iff.2 h)]

theorem execRecover_of_not_legal (hb : s.block = some b) {rs : List Run} (h : ¬∀ r ∈ rs, 1 ≤ r.len) :
    execRecover rs s = .refused .illegalRunList := by
  rw [execRecover, onBlock_some hb, if_neg (mt legalRuns_iff.1 h)]

end

/-- Settles O32: the operand form is checked before any run is expanded. -/
theorem recoverExpandsRuns : Obligations.RecoverExpandsRuns := by
  refine fun s b rs hb => ⟨fun hlen => execRecover_of_legal hb hlen, ?_⟩
  rintro ⟨r, hr, hzero⟩
  refine execRecover_of_not_legal hb fun hlen => ?_
  have hpos : 1 ≤ r.len := hlen r hr
  omega

/-! ### RUNS: the properties of the run list -/

theorem runsOf_len_pos (bs : List Bit) : ∀ r ∈ runsOf bs, 1 ≤ r.len := by
  induction bs with
  | nil => simp [runsOf]
  | cons b bs ih => exact consRun_len_pos b _ ih

/-- Adjacent runs have different symbols. -/
abbrev NeighboursDiffer (rs : List Run) : Prop := rs.IsChain fun r r' => r.sym ≠ r'.sym

theorem consRun_neighboursDiffer (b : Bit) {rs : List Run} (h : NeighboursDiffer rs) :
    NeighboursDiffer (consRun b rs) := by
  cases rs with
  | nil => exact .singleton _
  | cons r rest =>
    by_cases hr : r.sym = b
    · subst hr
      rw [consRun, if_pos rfl]
      exact List.isChain_cons.2 (List.isChain_cons.1 h)
    · rw [consRun, if_neg hr]
      exact .cons_cons (Ne.symm hr) h

theorem runsOf_neighboursDiffer (bs : List Bit) : NeighboursDiffer (runsOf bs) := by
  induction bs with
  | nil => exact .nil
  | cons b bs ih => exact consRun_neighboursDiffer b ih

theorem runsOf_len_sum (bs : List Bit) : ((runsOf bs).map Run.len).sum = bs.length := by
  have hlen := congrArg List.length (runsOf_expand bs)
  simpa [List.length_flatMap] using hlen

/-- RUNS undoes the expansion of a run list that no coalescing would change. -/
theorem runsOf_flatMap_replicate {rs : List Run} (hlen : ∀ r ∈ rs, 1 ≤ r.len) (hdiff : NeighboursDiffer rs) :
    runsOf (rs.flatMap fun r => List.replicate r.len r.sym) = rs := by
  induction rs with
  | nil => rfl
  | cons r rest ih =>
    obtain ⟨hr, hrest⟩ := List.forall_mem_cons.1 hlen
    obtain ⟨n, hn⟩ := Nat.exists_eq_add_of_le' hr
    rw [List.flatMap_cons, hn, runsOf_replicate_append, ih hrest hdiff.tail, ← hn]
    cases rest with
    | nil => rfl
    | cons r' rest =>
      have hne : r'.sym ≠ r.sym := (List.isChain_cons_cons.1 hdiff).1.symm
      exact if_neg hne

/-- Settles O31: RUNS of the expansion of a second such run list is that list, so there is no second. -/
theorem runsAreLossless : Obligations.RunsAreLossless := by
  refine fun s b seq hb => ⟨runsOf seq, execRuns_of_block hb seq, runsOf_len_pos seq, runsOf_neighboursDiffer seq,
    runsOf_len_sum seq, runsOf_expand seq, fun rs' hlen hdiff hexpand => ?_⟩
  rw [← hexpand, runsOf_flatMap_replicate hlen hdiff]

/-! ### Rounding a run to bit periods -/

/-- A rounded quotient is never negative, so the floor may be taken in the naturals. -/
theorem bitPeriods_eq_natFloor (spb : ℚ) (n : Nat) : bitPeriods spb n = ⌊(n : ℚ) / spb + 1 / 2⌋₊ := Int.floor_toNat _

theorem bitPeriods_div {p q : Nat} (hp : 0 < p) (hq : 0 < q) (n : Nat) :
    bitPeriods ((p : ℚ) / (q : ℚ)) n = (2 * n * q + p) / (2 * p) := by
  have hp' : (p : ℚ) ≠ 0 := by exact_mod_cast hp.ne'
  have hq' : (q : ℚ) ≠ 0 := by exact_mod_cast hq.ne'
  have hfrac : (n : ℚ) / ((p : ℚ) / (q : ℚ)) + 1 / 2 = ((2 * n * q + p : Nat) : ℚ) / ((2 * p : Nat) : ℚ) := by
    push_cast
    field_simp
  rw [bitPeriods_eq_natFloor, hfrac, Nat.floor_div_eq_div]

section
variable {spb : ℚ} {n : Nat}

theorem bitPeriods_eq_iff (hspb : 0 < spb) {m : Nat} (hm : 1 ≤ m) :
    bitPeriods spb n = m ↔ ((m : ℚ) - 1 / 2) * spb ≤ (n : ℚ) ∧ (n : ℚ) < ((m : ℚ) + 1 / 2) * spb := by
  have hhalf : (m : ℚ) + 1 / 2 = m + 1 - 1 / 2 := by ring
  rw [bitPeriods_eq_natFloor, Nat.floor_eq_iff' (by omega), ← sub_le_iff_le_add, le_div_iff₀ hspb, ← lt_sub_iff_add_lt,
    div_lt_iff₀ hspb, hhalf]

theorem bitPeriods_eq_zero_iff (hspb : 0 < spb) : bitPeriods spb n = 0 ↔ (n : ℚ) < spb / 2 := by
  have hhalf : (1 - 1 / 2) * spb = spb / 2 := by ring
  rw [bitPeriods_eq_natFloor, Nat.floor_eq_zero, ← lt_sub_iff_add_lt, div_lt_iff₀ hspb, hhalf]

theorem bitPeriods_of_tie {j : Nat} (h : (n : ℚ) / spb = (j : ℚ) + 1 / 2) : bitPeriods spb n = j + 1 := by
  have hsum : (n : ℚ) / spb + 1 / 2 = ((j + 1 : Nat) : ℚ) := by
    rw [h]
    push_cast
    ring
  rw [bitPeriods_eq_natFloor, hsum, Nat.floor_natCast]

theorem two_mul_div_of_tie {j : Nat} (h : (n : ℚ) / spb = (j : ℚ) + 1 / 2) :
    2 * (n : ℚ) / spb = ((2 * j + 1 : Nat) : ℚ) := by
  rw [mul_div_assoc, h]
  push_cast
  ring

end

/-- At 147/4 samples a bit a tie would make an odd product even. -/
theorem no_tie_at_147_div_4 (n j : Nat) : (n : ℚ) / (147 / 4) ≠ (j : ℚ) + 1 / 2 := by
  intro h
  have hcleared : 8 * (n : ℚ) = 147 * (2 * j + 1) := by
    rw [div_eq_iff (by norm_num)] at h
    linarith
  have hint : 8 * n = 147 * (2 * j + 1) := by exact_mod_cast hcleared
  omega

/-- Settles O33: one half is added and the floor is taken, so each form is a comparison cleared of its denominator. -/
theorem roundingInIntegers : Obligations.RoundingInIntegers :=
  ⟨fun _ _ n hp hq => bitPeriods_div hp hq n, fun _ _ _ hspb hm => bitPeriods_eq_iff hspb hm,
    fun _ _ hspb => bitPeriods_eq_zero_iff hspb, fun _ _ _ _ h => ⟨bitPeriods_of_tie h, two_mul_div_of_tie h⟩,
    by norm_num, no_tie_at_147_div_4⟩

/-! ### RECOVER expands run by run -/

theorem recoverBits_append (spb : ℚ) (rs rs' : List Run) :
    recoverBits spb (rs ++ rs') = recoverBits spb rs ++ recoverBits spb rs' := List.flatMap_append

theorem recoverBits_cons_glitch {spb : ℚ} (hspb : 0 < spb) {r : Run} (h : (r.len : ℚ) < spb / 2) (rs : List Run) :
    recoverBits spb (r :: rs) = recoverBits spb rs := by
  rw [recoverBits_cons, (bitPeriods_eq_zero_iff hspb).2 h, List.replicate_zero, List.nil_append]

theorem recoverBits_length (spb : ℚ) (rs : List Run) :
    (recoverBits spb rs).length = (rs.map fun r => bitPeriods spb r.len).sum := by
  induction rs with
  | nil => rfl
  | cons r rs ih => rw [recoverBits_cons, List.length_append, List.length_replicate, ih, List.map_cons, List.sum_cons]

/-- Settles O34: a glitch run rounds to zero periods, and RECOVER of two lists end to end joins nothing. -/
theorem glitchRunsVanishUnmerged : Obligations.GlitchRunsVanishUnmerged := by
  refine ⟨fun spb before after r hspb hglitch => ?_, recoverBits_length, by decide +kernel, by decide +kernel⟩
  rw [recoverBits_append, recoverBits_cons_glitch hspb hglitch]

/-! ### A whole number of samples a bit -/

theorem bitPeriods_mul {n : Nat} (hn : 1 ≤ n) (m : Nat) : bitPeriods (n : ℚ) (m * n) = m := by
  have hpos : (0 : ℚ) < n := by exact_mod_cast hn
  obtain rfl | hm := Nat.eq_zero_or_pos m
  · rw [bitPeriods_eq_zero_iff hpos, Nat.zero_mul, Nat.cast_zero]
    linarith
  · rw [bitPeriods_eq_iff hpos hm, Nat.cast_mul]
    constructor <;> nlinarith

/-- A line oversampled `n` times is held between the multiples of `n`. -/
theorem flatMap_replicate_eq_heldFrom (n k : Nat) (line : List Bit) :
    (line.flatMap fun v => List.replicate n v) = heldFrom (· * n) k line := by
  induction line generalizing k with
  | nil => rfl
  | cons v line ih => rw [List.flatMap_cons, heldFrom, ← ih, Nat.add_one_mul, Nat.add_sub_cancel_left]

/-- Settles O56: the distance of any two edges is a whole number of periods, so no run is rounded at all. -/
theorem recoveredStreamUndoesOversampling : Obligations.RecoveredStreamUndoesOversampling := by
  intro n line hn
  have hmono : StrictMono (· * n : Nat → Nat) := fun _ _ hlt => Nat.mul_lt_mul_of_pos_right hlt hn
  have hperiods : ∀ j m, 0 ≤ j → bitPeriods (n : ℚ) ((j + m) * n - j * n) = m := by
    intro j m _
    rw [Nat.add_mul, Nat.add_sub_cancel_left, bitPeriods_mul hn]
  rw [flatMap_replicate_eq_heldFrom n 0, recoverBits_runsOf_heldFrom hmono hperiods]

end Sys2Proof.Machine

/-! ASSEMBLE (42_byte_framer.md R150, R152, R153): bit `k` of byte `i` is one bit period of the stream, and these 72
periods are all that a complete stream is read for. -/

namespace Sys2Proof.Machine

/-! ### What the probe ends with -/

section
variable {s : State} {b : Block} {bits : List Bit}

theorem assemble_of_short (h : bits.length < 91) : assemble bits = .error (.incomplete bits.length) := if_pos h

theorem assemble_of_complete (h : 91 ≤ bits.length) : assemble bits = .ok (readPacket (bits.drop 1)) :=
  if_neg h.not_gt

theorem execAssemble_of_block (hb : s.block = some b) (bits : List Bit) :
    execAssemble bits s = settle s ((assemble bits).map .packet) := onBlock_some hb

theorem execAssemble_of_short (hb : s.block = some b) (h : bits.length < 91) :
    execAssemble bits s = raise s (.incomplete bits.length) := by
  rw [execAssemble_of_block hb, assemble_of_short h]
  rfl

theorem execAssemble_of_complete (hb : s.block = some b) (h : 91 ≤ bits.length) :
    execAssemble bits s = finish s (.packet (readPacket (bits.drop 1))) := by
  rw [execAssemble_of_block hb, assemble_of_complete h]
  rfl

end

/-! ### The bits of a byte and of a packet -/

/-- Reading back what was added up: `byteFrom_eq`, for the byte that has the eight periods as its bits. -/
theorem getLsbD_byteFrom (d : List Bit) (i : Nat) {k : Nat} (hk : k < 8) :
    (byteFrom d i).getLsbD k = d.getD (i + k) false := by
  have hbits : ∀ k < 8, (BitVec.ofFnLE fun j : Fin 8 => d.getD (i + j) false).getLsbD k = d.getD (i + k) false := by
    intro k hk
    rw [BitVec.getLsbD_ofFnLE, dif_pos hk]
  rw [byteFrom_eq fun k hk => (hbits k hk).symm, hbits k hk]

theorem getElem?_packetBytes_readPacket (d : List Bit) {i : Nat} (hi : i < 9) :
    (packetBytes (readPacket d))[i]? = some (packetByte d i) := by
  have hrange : packetBytes (readPacket d) = (List.range 9).map (packetByte d) := rfl
  rw [hrange, List.getElem?_map, List.getElem?_range hi, Option.map_some]

/-- The last data period, bit 7 of byte 8, is period 88: a complete stream holds every period that is read. -/
theorem some_getLsbD_packetByte {bits : List Bit} (hlen : 91 ≤ bits.length) {i k : Nat} (hi : i < 9) (hk : k < 8) :
    some ((packetByte (bits.drop 1) i).getLsbD k) = bits[10 * i + k + 1]? := by
  have hread : 10 * i + k + 1 < bits.length := by omega
  rw [packetByte, getLsbD_byteFrom _ _ hk, periodsPerChar, List.getD_eq_getElem?_getD, List.getElem?_drop,
    Nat.add_comm 1, List.getElem?_eq_getElem hread, Option.getD_some]

theorem readPacket_congr {d d' : List Bit} (h : ∀ i < 9, packetByte d i = packetByte d' i) :
    readPacket d = readPacket d' := by
  simp [readPacket, h]

/-- Settles O35: the two sides of the threshold, and the bits of `readPacket` on a complete stream. -/
theorem assembleReadsLsbFirst : Obligations.AssembleReadsLsbFirst := by
  refine ⟨fun s b bits hb hshort => execAssemble_of_short hb hshort, fun s b bits hb hlen =>
    ⟨readPacket (bits.drop 1), execAssemble_of_complete hb hlen, fun i k hi hk => ?_⟩⟩
  rw [getElem?_packetBytes_readPacket _ hi, Option.map_some, some_getLsbD_packetByte hlen hi hk]

/-! ### The framing bits -/

theorem assemble_congr {bits bits' : List Bit} (hlen : 91 ≤ bits.length) (hlen' : 91 ≤ bits'.length)
    (hdata : ∀ i k : Nat, i < 9 → k < 8 → bits[10 * i + k + 1]? = bits'[10 * i + k + 1]?) :
    assemble bits = assemble bits' := by
  have hbyte : ∀ i < 9, packetByte (bits.drop 1) i = packetByte (bits'.drop 1) i := by
    refine fun i hi => BitVec.eq_of_getLsbD_eq fun k hk => Option.some_inj.1 ?_
    rw [some_getLsbD_packetByte hlen hi hk, some_getLsbD_packetByte hlen' hi hk, hdata i k hi hk]
  rw [assemble_of_complete hlen, assemble_of_complete hlen', readPacket_congr hbyte]

/-- Settles O36: ASSEMBLE depends on its stream through `assemble` alone, with a block or without one. -/
theorem assembleIgnoresFramingBits : Obligations.AssembleIgnoresFramingBits := by
  intro s bits bits' hlen hlen' hdata
  change execAssemble bits s = execAssemble bits' s
  rw [execAssemble, execAssemble, assemble_congr hlen hlen' hdata]

end Sys2Proof.Machine

/-! VALIDATE (43_validator.md R170 to R176, R179): the four rules in integers, all of them required, and what they say
of the packets PKT builds. -/

namespace Sys2Proof.Machine

/-! ### What the probe ends with -/

section
variable {s : State} {b : Block} {p : Packet} {sig : Signal}

theorem execValidate_of_ok (hb : s.block = some b) (h : validate p = .ok sig) :
    execValidate p s = finish s (.signal sig) := by
  rw [execValidate, onBlock_some hb, h]
  rfl

theorem execValidate_of_invalid (hb : s.block = some b) (h : validate p = .error .invalid) :
    execValidate p s = raise s .invalid := by
  rw [execValidate, onBlock_some hb, h]
  rfl

end

/-! ### The four rules -/

/-- The packet is valid (43_validator.md R170): each rule by its check in the model. -/
structure PacketRules (p : Packet) : Prop where
  status : okStatus p = true
  digits : okDigits p = true
  sum : okSum p = true
  term : okTerm p = true

section
variable {p : Packet}

theorem validate_of_rules (h : PacketRules p) : validate p = .ok (signalOf p) := by
  rw [validate, h.status, h.digits, h.sum, h.term]
  rfl

theorem validate_of_not_rules (h : ¬PacketRules p) : validate p = .error .invalid := by
  refine if_neg fun hall => h ?_
  simp only [Bool.and_eq_true] at hall
  obtain ⟨⟨⟨hstatus, hdigits⟩, hsum⟩, hterm⟩ := hall
  exact ⟨hstatus, hdigits, hsum, hterm⟩

/-- The seven codes of the status rule, in the order of the source that 43_validator.md R171 quotes. -/
theorem okStatus_iff :
    okStatus p = true ↔ p.status ∈ [0x49#8, 0x41#8, 0x20#8, 0x53#8, 0x4C#8, 0x52#8, 0x43#8] := by
  have hperm : statusCodes.Perm [0x49#8, 0x41#8, 0x20#8, 0x53#8, 0x4C#8, 0x52#8, 0x43#8] := by decide
  rw [okStatus, isStatusCode, decide_eq_true_iff, hperm.mem_iff]

theorem isDigitByte_iff {x : Byte} : isDigitByte x = true ↔ 48 ≤ x.toNat ∧ x.toNat ≤ 57 := decide_eq_true_iff

theorem okDigits_iff :
    okDigits p = true ↔
      ∀ x ∈ [p.digit0, p.digit1, p.digit2, p.digit3, p.digit4], 48 ≤ x.toNat ∧ x.toNat ≤ 57 := by
  simp only [okDigits, List.all_eq_true, isDigitByte_iff, digitBytes]

theorem okSum_iff :
    okSum p = true ↔
      ((p.digit0.toNat : Int) - 48) + ((p.digit1.toNat : Int) - 48) + ((p.digit2.toNat : Int) - 48) +
        ((p.digit3.toNat : Int) - 48) + ((p.digit4.toNat : Int) - 48) = (p.checksum.toNat : Int) - 64 := by
  simp [okSum, digitSum, digitBytes, digitOffset, checksumOffset, add_assoc]

theorem okTerm_iff : okTerm p = true ↔ p.term1.toNat = 10 ∧ p.term2.toNat = 13 := by
  rw [okTerm, decide_eq_true_iff, ← BitVec.toNat_inj, ← BitVec.toNat_inj]
  rfl

theorem packetRules_iff :
    PacketRules p ↔
      p.status ∈ [0x49#8, 0x41#8, 0x20#8, 0x53#8, 0x4C#8, 0x52#8, 0x43#8] ∧
      (∀ x ∈ [p.digit0, p.digit1, p.digit2, p.digit3, p.digit4], 48 ≤ x.toNat ∧ x.toNat ≤ 57) ∧
      ((p.digit0.toNat : Int) - 48) + ((p.digit1.toNat : Int) - 48) + ((p.digit2.toNat : Int) - 48) +
        ((p.digit3.toNat : Int) - 48) + ((p.digit4.toNat : Int) - 48) = (p.checksum.toNat : Int) - 64 ∧
      p.term1.toNat = 10 ∧ p.term2.toNat = 13 := by
  rw [← okStatus_iff, ← okDigits_iff, ← okSum_iff, ← okTerm_iff]
  exact ⟨fun h => ⟨h.status, h.digits, h.sum, h.term⟩, fun ⟨hstatus, hdigits, hsum, hterm⟩ =>
    ⟨hstatus, hdigits, hsum, hterm⟩⟩

end

/-- Settles O37: the rules hold and the packet's Signal is the answer, or one fails and the answer is INVALID. -/
theorem validateRules : Obligations.ValidateRules := by
  intro s b p hb
  by_cases hrules : PacketRules p
  · obtain ⟨hstatus, hdigits, hsum, hterm1, hterm2⟩ := packetRules_iff.1 hrules
    have hvalue : ∀ x ∈ digitBytes p, (digitValue x).val + 48 = x.toNat :=
      fun x hx => digitValue_val (List.all_eq_true.1 hrules.digits x hx)
    simp only [digitBytes, List.forall_mem_cons] at hvalue
    obtain ⟨h0, h1, h2, h3, h4, -⟩ := hvalue
    exact .inl ⟨hstatus, hdigits, hsum, hterm1, hterm2, signalOf p,
      execValidate_of_ok hb (validate_of_rules hrules), rfl, h0, h1, h2, h3, h4⟩
  · exact .inr ⟨packetRules_iff.not.1 hrules, execValidate_of_invalid hb (validate_of_not_rules hrules)⟩

/-! ### The packets PKT builds, changed in the checksum byte or in the digit bytes -/

/-- The digit bytes leave one checksum byte: a byte is its own integer, so no other meets the sum. -/
theorem checksum_unique {p : Packet} (h : okSum p = true) {k : Byte}
    (hk : okSum { p with checksum := k } = true) : k = p.checksum := by
  rw [okSum_iff] at h hk
  have hint : (k.toNat : Int) - 64 = (p.checksum.toNat : Int) - 64 := hk.symm.trans h
  exact BitVec.eq_of_toNat_eq (by omega)

theorem validate_pktOf_of_checksum_ne (c : Byte) (d : Digits) {k : Byte} (hk : k ≠ (pktOf c d).checksum) :
    validate { pktOf c d with checksum := k } = .error .invalid :=
  validate_of_not_rules fun hrules => hk (checksum_unique (okSum_pktOf c d) hrules.sum)

/-- The checksum byte of PKT depends on the digits through their sum alone. -/
theorem pktOf_replaceDigits (c : Byte) {d d' : Digits}
    (hsum : d'.d0.val + d'.d1.val + d'.d2.val + d'.d3.val + d'.d4.val =
      d.d0.val + d.d1.val + d.d2.val + d.d3.val + d.d4.val) :
    { pktOf c d with
      digit0 := (pktOf c d').digit0, digit1 := (pktOf c d').digit1, digit2 := (pktOf c d').digit2
      digit3 := (pktOf c d').digit3, digit4 := (pktOf c d').digit4 } = pktOf c d' := by
  simp only [pktOf, hsum]

/-- Settles O38: PKT passes, only its own checksum byte does, and digits of the same sum give the packet PKT builds of
them. -/
theorem packetRoundTrip : Obligations.PacketRoundTrip := by
  intro s b c d hb hc
  have hplus : (pktOf c d).checksum + 1 ≠ (pktOf c d).checksum := by bv_omega
  have hminus : (pktOf c d).checksum - 1 ≠ (pktOf c d).checksum := by bv_omega
  refine ⟨execValidate_of_ok hb (validate_pktOf hc d),
    execValidate_of_invalid hb (validate_pktOf_of_checksum_ne c d hplus),
    execValidate_of_invalid hb (validate_pktOf_of_checksum_ne c d hminus), fun d' hsum => ?_⟩
  rw [pktOf_replaceDigits c hsum]
  exact execValidate_of_ok hb (validate_pktOf hc d')

end Sys2Proof.Machine

/-! The timer state machine (44_timer_fsm.md R190 to R199): one equation for APPLY of any status byte, from which the
seven rows and the laws follow. -/

namespace Sys2Proof.Machine

/-! ### The seven codes -/

theorem mem_statusCodes_iff {c : Byte} :
    c ∈ statusCodes ↔
      c = 0x20 ∨ c = 0x53 ∨ c = 0x49 ∨ c = 0x4C ∨ c = 0x52 ∨ c = 0x43 ∨ c = 0x41 := by
  simp only [statusCodes, List.mem_cons, List.not_mem_nil, or_false]
  rfl

/-! ### The transition of the Timer State -/

section
variable {c : Byte}

/-- Any byte outside the seven codes acts as 'A' (44_timer_fsm.md R197). -/
theorem flagsFor_of_not_mem (hc : c ∉ statusCodes) : flagsFor c = flagsA := by
  simp only [statusCodes, List.mem_cons, List.not_mem_nil, or_false, not_or] at hc
  obtain ⟨hSpace, hS, hI, hL, hR, hC, hA⟩ := hc
  funext t
  rw [flagsFor, if_neg hSpace, if_neg hS, if_neg hI, if_neg hL, if_neg hR, if_neg hC, if_neg hA]

theorem applySignal_of_not_mem (hc : c ∉ statusCodes) (d : Digits) (t : Timer) :
    applySignal ⟨c, d⟩ t = { t with left := false, right := false, digits := d } := by
  rw [applySignal, flagsFor_of_not_mem hc]
  rfl

/-- The transition as one record (44_timer_fsm.md R190), for legal and illegal bytes alike. -/
theorem applySignal_eq (c : Byte) (d : Digits) (t : Timer) :
    applySignal ⟨c, d⟩ t = {
      running := if c = 0x20 then true else if c = 0x53 ∨ c = 0x49 ∨ c = 0x43 then false else t.running
      reset := if c = 0x49 then true else if c = 0x20 ∨ c = 0x53 then false else t.reset
      left := decide (c = 0x4C ∨ c = 0x43)
      right := decide (c = 0x52 ∨ c = 0x43)
      digits := d } := by
  by_cases hc : c ∈ statusCodes
  · obtain rfl | rfl | rfl | rfl | rfl | rfl | rfl := mem_statusCodes_iff.1 hc <;> rfl
  · have hne := mem_statusCodes_iff.not.1 hc
    simp only [not_or] at hne
    simp only [applySignal_of_not_mem hc, hne, if_false, or_self, decide_false]

/-- The previous hands and digits play no part. -/
theorem applySignal_congr (sig : Signal) {t t' : Timer} (hrunning : t.running = t'.running)
    (hreset : t.reset = t'.reset) : applySignal sig t = applySignal sig t' := by
  rw [applySignal_eq, applySignal_eq, hrunning, hreset]

/-- Each of running and reset is set by the status, whatever it was, or kept both times. -/
theorem applySignal_applySignal (sig : Signal) (t : Timer) :
    applySignal sig (applySignal sig t) = applySignal sig t := by
  obtain ⟨c, d⟩ := sig
  simp only [applySignal_eq]
  congr 1 <;> split_ifs <;> rfl

end

/-! ### The operations -/

section
variable {s : State} {b : Block} {c : Byte}

@[simp] theorem Block.withTimer_withTimer (b : Block) (t t' : Timer) : (b.withTimer t).withTimer t' = b.withTimer t' :=
  rfl

theorem runArm_some (hb : s.block = some b) (flags : Timer → Timer) (d : Digits) :
    runArm s flags d =
      .next ((s.withBlock (some (b.withTimer (timerArm flags d b.timer)))).withResult (.ok .unit)) := by
  rw [runArm, update, onBlock_some hb, finish]

theorem execApply_eq_runArm (hc : c ∈ statusCodes) (d : Digits) (s : State) :
    execApply c d s = runArm s (flagsFor c) d := by
  simp only [execApply, isStatusCode, hc, decide_true, if_true]
  rfl

theorem execApply_of_mem (hb : s.block = some b) (hc : c ∈ statusCodes) (d : Digits) :
    execApply c d s =
      .next ((s.withBlock (some (b.withTimer (applySignal ⟨c, d⟩ b.timer)))).withResult (.ok .unit)) := by
  rw [execApply_eq_runArm hc, runArm_some hb, applySignal]

end

/-- Settles O8: APPLY of a legal status runs `applySignal`, and `applySignal_eq` is the rule's record. -/
theorem applyTransitionByStatus : Obligations.ApplyTransitionByStatus := by
  refine ⟨fun s b c d hb hc => ?_, fun c => mem_statusCodes_iff⟩
  rw [← applySignal_eq]
  exact execApply_of_mem hb hc d

/-- Settles O10: the laws are those of `applySignal`, and APPLY writes the Timer State through it alone. -/
theorem applyLaws : Obligations.ApplyLaws := by
  refine ⟨fun s t c d ht => ?idempotence, fun s t u b d1 d2 hb ht hu => ?isolation,
    fun s s' t t' b b' c d hb hb' hrunning hreset ht ht' => ?dependence,
    fun s b c d hb hc => ⟨_, execApply_of_mem hb hc d⟩⟩
  case idempotence =>
    obtain ⟨hc, b, hb, rfl⟩ := execApply_next ht
    exact ⟨_, execApply_of_mem rfl hc d, by simp [applySignal_applySignal]⟩
  case isolation =>
    obtain rfl := Host.Outcome.next.inj ((execApply_of_mem hb (by decide) d1).symm.trans ht)
    obtain rfl := Host.Outcome.next.inj ((execApply_of_mem rfl (by decide) d2).symm.trans hu)
    simp [applySignal_eq, Block.withTimer]
  case dependence =>
    obtain ⟨hc, -⟩ := execApply_next ht
    obtain rfl := Host.Outcome.next.inj ((execApply_of_mem hb hc d).symm.trans ht)
    obtain rfl := Host.Outcome.next.inj ((execApply_of_mem hb' hc d).symm.trans ht')
    simp [applySignal_congr ⟨c, d⟩ hrunning hreset]

/-! ### The seven rows -/

/-- The row of a legal status: it runs the arm of its byte, and its encoding begins with that byte. -/
structure IsStatusRow (c : Byte) (row : Digits → Instr) : Prop where
  legal : c ∈ statusCodes
  exec_eq : ∀ d s, exec (row d) s = runArm s (flagsFor c) d
  byte : ∀ d, (encode (row d)).head? = some c

/-- APPLY and the row end alike, with the Timer State `τ` that the transition gives. -/
theorem IsStatusRow.apply_and_row {c : Byte} {row : Digits → Instr} (h : IsStatusRow c row) {s : State} {b : Block}
    (hb : s.block = some b) {d : Digits} {τ : Timer} (hτ : applySignal ⟨c, d⟩ b.timer = τ) :
    exec (.apply c d) s = .next { s with block := some { b with timer := τ }, result := .ok .unit } ∧
      exec (row d) s = .next { s with block := some { b with timer := τ }, result := .ok .unit } ∧
      (encode (row d)).head? = some c := by
  have happly : exec (.apply c d) s = .next { s with block := some { b with timer := τ }, result := .ok .unit } :=
    hτ ▸ execApply_of_mem hb h.legal d
  have hrow : exec (row d) s = exec (.apply c d) s := (h.exec_eq d s).trans (execApply_eq_runArm h.legal d s).symm
  exact ⟨happly, hrow.trans happly, h.byte d⟩

theorem isStatusRow_statusSpace : IsStatusRow 0x20 .statusSpace :=
  ⟨by decide, fun _ _ => rfl, Laws.OpcodeByte.statusSpace⟩

/-- Settles O1: `applySignal_eq` at 0x20. -/
theorem statusSpaceSetsRunning : Obligations.StatusSpaceSetsRunning :=
  fun _ _ d hb => isStatusRow_statusSpace.apply_and_row hb (applySignal_eq 0x20 d _)

theorem isStatusRow_statusS : IsStatusRow 0x53 .statusS := ⟨by decide, fun _ _ => rfl, Laws.OpcodeByte.statusS⟩

/-- Settles O2: `applySignal_eq` at 0x53. -/
theorem statusSStopsWithoutReset : Obligations.StatusSStopsWithoutReset :=
  fun _ _ d hb => isStatusRow_statusS.apply_and_row hb (applySignal_eq 0x53 d _)

theorem isStatusRow_statusI : IsStatusRow 0x49 .statusI := ⟨by decide, fun _ _ => rfl, Laws.OpcodeByte.statusI⟩

/-- Settles O3: `applySignal_eq` at 0x49. -/
theorem statusISetsReset : Obligations.StatusISetsReset :=
  fun _ _ d hb => isStatusRow_statusI.apply_and_row hb (applySignal_eq 0x49 d _)

theorem isStatusRow_statusL : IsStatusRow 0x4C .statusL := ⟨by decide, fun _ _ => rfl, Laws.OpcodeByte.statusL⟩

/-- Settles O4: `applySignal_eq` at 0x4C. -/
theorem statusLSetsLeftHandOnly : Obligations.StatusLSetsLeftHandOnly :=
  fun _ _ d hb => isStatusRow_statusL.apply_and_row hb (applySignal_eq 0x4C d _)

theorem isStatusRow_statusR : IsStatusRow 0x52 .statusR := ⟨by decide, fun _ _ => rfl, Laws.OpcodeByte.statusR⟩

/-- Settles O5: `applySignal_eq` at 0x52. -/
theorem statusRSetsRightHandOnly : Obligations.StatusRSetsRightHandOnly :=
  fun _ _ d hb => isStatusRow_statusR.apply_and_row hb (applySignal_eq 0x52 d _)

theorem isStatusRow_statusC : IsStatusRow 0x43 .statusC := ⟨by decide, fun _ _ => rfl, Laws.OpcodeByte.statusC⟩

/-- Settles O6: `applySignal_eq` at 0x43. -/
theorem statusCSetsBothHandsAndStops : Obligations.StatusCSetsBothHandsAndStops :=
  fun _ _ d hb => isStatusRow_statusC.apply_and_row hb (applySignal_eq 0x43 d _)

theorem isStatusRow_statusA : IsStatusRow 0x41 .statusA := ⟨by decide, fun _ _ => rfl, Laws.OpcodeByte.statusA⟩

/-- Settles O7: `applySignal_eq` at 0x41, and the transition on a byte that is no status. -/
theorem statusAClearsHandsOnly : Obligations.StatusAClearsHandsOnly :=
  ⟨fun _ _ d hb => isStatusRow_statusA.apply_and_row hb (applySignal_eq 0x41 d _),
    fun _ d t hc => applySignal_of_not_mem hc d t⟩

end Sys2Proof.Machine

/-! The views of the Timer State (44_timer_fsm.md R200 to R207): each is a `view`, so it ends with its function of the
block and writes only the result. -/

namespace Sys2Proof.Machine

/-- The largest time is that of 9:99.99. -/
theorem timeMs_le (d : Digits) : timeMs d ≤ 639990 := by
  have h0 := d.d0.isLt
  have h1 := d.d1.isLt
  have h2 := d.d2.isLt
  have h3 := d.d3.isLt
  have h4 := d.d4.isLt
  unfold timeMs
  omega

theorem ten_dvd_timeMs (d : Digits) : 10 ∣ timeMs d := by
  unfold timeMs
  omega

/-- Settles O20. -/
theorem timeStringView : Obligations.TimeStringView :=
  ⟨fun _ _ hb => execGetTimeStr_some hb, rfl⟩

/-- Settles O21: the number is `timeMs` of the digits. -/
theorem timeMsView : Obligations.TimeMsView :=
  ⟨fun _ b hb => ⟨timeMs b.timer.digits, rfl, execGetTimeMs_some hb, timeMs_le _, ten_dvd_timeMs _⟩, rfl⟩

/-- Settles O22. -/
theorem flagViews : Obligations.FlagViews := fun _ _ hb =>
  ⟨view_some hb _, view_some hb _, view_some hb _, view_some hb _, rfl, rfl, rfl, rfl⟩

/-- Settles O23. -/
theorem digitsAndStateViews : Obligations.DigitsAndStateViews := fun _ _ hb =>
  ⟨view_some hb _, view_some hb _, rfl, rfl⟩

end Sys2Proof.Machine

/-! The capture mode and the operations on the whole pipeline (45_host_ops.md R221 to R227): START and STOP as updates
of the block, DECODE and PROCESS_BUFFER by what the pipeline gives for their buffer. -/

namespace Sys2Proof.Machine

/-! ### Writing back what is there already -/

theorem Block.withCapturing_self {b : Block} {on : Bool} (h : b.capturing = on) : b.withCapturing on = b := by
  subst h
  rfl

theorem State.withBlock_self {s : State} {ob : Option Block} (h : s.block = ob) : s.withBlock ob = s := by
  subst h
  rfl

section
variable {s : State} {b : Block}

theorem update_some (hb : s.block = some b) (f : Block → Block) :
    update s f = .next ((s.withBlock (some (f b))).withResult (.ok .unit)) := by
  rw [update, onBlock_some hb, finish]

theorem update_of_fixed {f : Block → Block} (hb : s.block = some b) (hf : f b = b) :
    update s f = .next (s.withResult (.ok .unit)) := by
  rw [update_some hb, hf, State.withBlock_self hb]

variable {buf : List Sample}

theorem bufferFits_nil (s : State) : bufferFits s [] = true := bufferFits_iff.2 fun _ _ => Nat.zero_le _

theorem onBuffer_of_fits {k : Block → Answer} (hb : s.block = some b) (hfits : bufferFits s buf = true) :
    onBuffer s buf k = k b := by
  rw [onBuffer, onBlock_some hb, if_pos hfits]

/-! ### A stage's value, or the code it raised, as a probe ends with it -/

section
variable {α : Type} {r : Except Failure α} (mk : α → Value)

theorem settle_map_of_ok {a : α} (h : r = .ok a) : settle s (r.map mk) = finish s (mk a) := by
  rw [h]
  rfl

theorem settle_map_of_error {f : Failure} (h : r = .error f) : settle s (r.map mk) = raise s f := by
  rw [h]
  rfl

end

/-! ### DECODE -/

theorem execDecode_of_fits (hb : s.block = some b) (hfits : bufferFits s buf = true) :
    execDecode buf s = settle s ((pipe b.spb b.zeroPolicy buf).map .signal) :=
  onBuffer_of_fits hb hfits

theorem execDecode_of_pipe_ok {sig : Signal} (hb : s.block = some b) (hfits : bufferFits s buf = true)
    (hpipe : pipe b.spb b.zeroPolicy buf = .ok sig) : execDecode buf s = finish s (.signal sig) :=
  (execDecode_of_fits hb hfits).trans (settle_map_of_ok _ hpipe)

theorem execDecode_of_pipe_error {f : Failure} (hb : s.block = some b) (hfits : bufferFits s buf = true)
    (hpipe : pipe b.spb b.zeroPolicy buf = .error f) : execDecode buf s = raise s f :=
  (execDecode_of_fits hb hfits).trans (settle_map_of_error _ hpipe)

/-- No symbols are resolved alike under both policies, and no bits never synchronise. -/
theorem pipe_nil (spb : ℚ) (policy : ZeroPolicy) : pipe spb policy [] = .error .syncMiss := by
  cases policy with
  | abort => rfl
  | hold => rfl

/-! ### PROCESS_BUFFER where no Signal is accepted -/

theorem execProcessBuffer_of_not_capturing (hb : s.block = some b) (hcap : b.capturing = false)
    (hfits : bufferFits s buf = true) : execProcessBuffer buf s = raise s .ignored := by
  simp [execProcessBuffer, onBuffer_of_fits hb hfits, hcap]

theorem execProcessBuffer_of_pipe_error {f : Failure} (hb : s.block = some b) (hcap : b.capturing = true)
    (hfits : bufferFits s buf = true) (hpipe : pipe b.spb b.zeroPolicy buf = .error f) :
    execProcessBuffer buf s = raise s f := by
  simp [execProcessBuffer, onBuffer_of_fits hb hfits, hcap, hpipe]

end

/-- Settles O14: START is an update that fixes a block already capturing. -/
theorem startOnlySetsCapturing : Obligations.StartOnlySetsCapturing :=
  ⟨fun _ _ hb => update_some hb _, fun _ _ hb hcap => update_of_fixed hb (Block.withCapturing_self hcap), rfl⟩

/-- Settles O15: STOP is an update that fixes a block already stopped; the block it leaves is not capturing. -/
theorem stopOnlyClearsCapturing : Obligations.StopOnlyClearsCapturing := by
  refine ⟨fun _ _ hb => update_some hb _, fun _ _ hb hcap => update_of_fixed hb (Block.withCapturing_self hcap),
    fun s t buf hstop hfits => ?_, rfl⟩
  obtain ⟨b, -, rfl⟩ := update_next hstop
  exact execProcessBuffer_of_not_capturing rfl (Block.withCapturing_capturing b false) hfits

/-- Settles O16: by the capture mode and the pipeline's outcome. -/
theorem processBufferOutcomes : Obligations.ProcessBufferOutcomes := fun _ _ _ hb hfits =>
  ⟨fun hcap => execProcessBuffer_of_not_capturing hb hcap hfits,
    fun _ hcap hpipe => execProcessBuffer_of_pipe_error hb hcap hfits hpipe,
    fun _ hcap hpipe => execProcessBuffer_of_pipe_ok hb hcap hfits hpipe⟩

/-- Settles O18: the empty buffer is within every bound, and its pipeline never synchronises. -/
theorem decodeReturnsPipelineResult : Obligations.DecodeReturnsPipelineResult :=
  ⟨fun _ _ _ hb hfits => ⟨fun _ => execDecode_of_pipe_ok hb hfits, fun _ => execDecode_of_pipe_error hb hfits⟩,
    fun s _ hb => execDecode_of_pipe_error hb (bufferFits_nil s) (pipe_nil _ _)⟩

end Sys2Proof.Machine

/-! The pipeline stage by stage (45_host_ops.md R224): what each stage can give, where a code ends the pipeline, and the
probe of each stage beside DECODE. -/

namespace Sys2Proof.Machine

/-! ### What a stage gives: its one code, or a value -/

theorem resolve_cases (policy : ZeroPolicy) (sym : List Symbol) :
    (∃ i, resolve policy sym = .error (.indeterminate i)) ∨ ∃ rsym, resolve policy sym = .ok rsym := by
  cases h : resolve policy sym with
  | error f =>
    obtain ⟨i, rfl⟩ := resolve_error h
    exact .inl ⟨i, rfl⟩
  | ok rsym => exact .inr ⟨rsym, rfl⟩

theorem sync_cases (spb : ℚ) (rsym : List Bit) : sync spb rsym = .error .syncMiss ∨ ∃ k, sync spb rsym = .ok k := by
  cases h : sync spb rsym with
  | error f => exact .inl (congrArg _ (sync_error h))
  | ok k => exact .inr ⟨k, rfl⟩

theorem assemble_cases (bits : List Bit) :
    assemble bits = .error (.incomplete bits.length) ∨ ∃ pkt, assemble bits = .ok pkt := by
  cases h : assemble bits with
  | error f => exact .inl (congrArg _ (assemble_error h))
  | ok pkt => exact .inr ⟨pkt, rfl⟩

theorem validate_cases (pkt : Packet) : validate pkt = .error .invalid ∨ ∃ sig, validate pkt = .ok sig := by
  cases h : validate pkt with
  | error f => exact .inl (congrArg _ (validate_error h))
  | ok sig => exact .inr ⟨sig, rfl⟩

/-! ### Each stage of the pipeline ends it or hands on -/

section
variable {spb : ℚ} {policy : ZeroPolicy} {buf : List Sample} {rsym seq : List Bit} {f : Failure}

theorem pipe_of_resolve_error (h : resolve policy (sampleBuffer buf) = .error f) : pipe spb policy buf = .error f := by
  rw [pipe, h]

theorem pipe_of_resolve_ok (h : resolve policy (sampleBuffer buf) = .ok rsym) :
    pipe spb policy buf = decodeResolved spb rsym := by
  rw [pipe, h]

theorem decodeResolved_of_sync_error (h : sync spb rsym = .error f) : decodeResolved spb rsym = .error f := by
  rw [decodeResolved, h]

theorem decodeResolved_of_sync_ok {k : Nat} (h : sync spb rsym = .ok k) :
    decodeResolved spb rsym = decodeSuffix spb (rsym.drop k) := by
  rw [decodeResolved, h]

theorem decodeSuffix_of_assemble_error (h : assemble (recoverBits spb (runsOf seq)) = .error f) :
    decodeSuffix spb seq = .error f := by
  rw [decodeSuffix, h]

theorem decodeSuffix_of_assemble_ok {pkt : Packet} (h : assemble (recoverBits spb (runsOf seq)) = .ok pkt) :
    decodeSuffix spb seq = validate pkt := by
  rw [decodeSuffix, h]

end

/-! ### The probe of a stage that raised its code, or gave a value -/

section
variable {s : State} {b : Block} {f : Failure} (hb : s.block = some b)
include hb

theorem execResolve_of_ok {sym : List Symbol} {rsym : List Bit} (h : resolve b.zeroPolicy sym = .ok rsym) :
    execResolve sym s = finish s (.bits rsym) :=
  (execResolve_of_block hb sym).trans (settle_map_of_ok _ h)

theorem execResolve_of_error {sym : List Symbol} (h : resolve b.zeroPolicy sym = .error f) :
    execResolve sym s = raise s f :=
  (execResolve_of_block hb sym).trans (settle_map_of_error _ h)

theorem execSync_of_ok {rsym : List Bit} {k : Nat} (h : sync b.spb rsym = .ok k) :
    execSync rsym s = finish s (.index k) :=
  (execSync_of_block hb rsym).trans (settle_map_of_ok _ h)

theorem execSync_of_error {rsym : List Bit} (h : sync b.spb rsym = .error f) : execSync rsym s = raise s f :=
  (execSync_of_block hb rsym).trans (settle_map_of_error _ h)

theorem execAssemble_of_ok {bits : List Bit} {pkt : Packet} (h : assemble bits = .ok pkt) :
    execAssemble bits s = finish s (.packet pkt) :=
  (execAssemble_of_block hb bits).trans (settle_map_of_ok _ h)

theorem execAssemble_of_error {bits : List Bit} (h : assemble bits = .error f) : execAssemble bits s = raise s f :=
  (execAssemble_of_block hb bits).trans (settle_map_of_error _ h)

end

/-- Settles O60. The pipeline is rewritten to what is left of it as each stage gives a value, and DECODE ends with the
first code, or with VALIDATE's Signal. RECOVER is never refused: RUNS makes no run of length 0. -/
theorem decodeRunsTheStagesInOrder : Obligations.DecodeRunsTheStagesInOrder := by
  intro s b buf hb hfits
  refine ⟨sampleBuffer buf, execSample_of_fits hb hfits, ?_⟩
  obtain ⟨i, hresolve⟩ | ⟨rsym, hresolve⟩ := resolve_cases b.zeroPolicy (sampleBuffer buf)
  · exact .inl ⟨i, execResolve_of_error hb hresolve,
      execDecode_of_pipe_error hb hfits (pipe_of_resolve_error hresolve)⟩
  refine .inr ⟨rsym, execResolve_of_ok hb hresolve, ?_⟩
  have hpipe : pipe b.spb b.zeroPolicy buf = decodeResolved b.spb rsym := pipe_of_resolve_ok hresolve
  obtain hsync | ⟨k, hsync⟩ := sync_cases b.spb rsym
  · exact .inl ⟨execSync_of_error hb hsync,
      execDecode_of_pipe_error hb hfits (hpipe.trans (decodeResolved_of_sync_error hsync))⟩
  refine .inr ⟨k, _, _, execSync_of_ok hb hsync, execRuns_of_block hb _,
    execRecover_of_legal hb (runsOf_len_pos _), ?_⟩
  rw [decodeResolved_of_sync_ok hsync] at hpipe
  obtain hassemble | ⟨pkt, hassemble⟩ := assemble_cases (recoverBits b.spb (runsOf (rsym.drop k)))
  · exact .inl ⟨_, execAssemble_of_error hb hassemble,
      execDecode_of_pipe_error hb hfits (hpipe.trans (decodeSuffix_of_assemble_error hassemble))⟩
  refine .inr ⟨pkt, execAssemble_of_ok hb hassemble, ?_⟩
  rw [decodeSuffix_of_assemble_ok hassemble] at hpipe
  obtain hvalidate | ⟨sig, hvalidate⟩ := validate_cases pkt
  · exact .inl ⟨execValidate_of_invalid hb hvalidate, execDecode_of_pipe_error hb hfits (hpipe.trans hvalidate)⟩
  · exact .inr ⟨sig, execValidate_of_ok hb hvalidate, execDecode_of_pipe_ok hb hfits (hpipe.trans hvalidate)⟩

end Sys2Proof.Machine

/-! When an operation completes (45_host_ops.md R229, 00_scope.md R9, 30_encoding.md R82): the guards of the shared
operations are the only places an instruction is refused, and each checks one precondition. -/

namespace Sys2Proof.Machine

/-- The answer is a next state if `p` holds, and an interface refusal if it does not. -/
inductive CompletesIff (p : Prop) : Answer → Prop where
  | next (hp : p) (t : State) : CompletesIff p (.next t)
  | refused (hp : ¬p) (r : Refusal) (hr : r.IsInterface) : CompletesIff p (.refused r)

/-- What an instruction asks of its operands: their forms, and a buffer within the bound. -/
def OperandsFit (s : State) (i : Instr) : Prop :=
  i.wellFormed = true ∧ ∀ buf, bufferOf i = some buf → bufferFits s buf = true

section
variable {s : State} {i : Instr}

theorem operandsFit_iff_wellFormed (hbuf : bufferOf i = none) : OperandsFit s i ↔ i.wellFormed = true := by
  simp [OperandsFit, hbuf]

theorem operandsFit_iff_bufferFits {buf : List Sample} (hwf : i.wellFormed = true) (hbuf : bufferOf i = some buf) :
    OperandsFit s i ↔ bufferFits s buf = true := by
  simp [OperandsFit, hwf, hbuf]

end

namespace CompletesIff
variable {p q : Prop} {s : State} {a : Answer}

theorem exists_next_iff (h : CompletesIff p a) : (∃ t, a = .next t) ↔ p := by
  cases h with
  | next hp t => exact ⟨fun _ => hp, fun _ => ⟨t, rfl⟩⟩
  | refused hp r hr => simp [hp]

theorem exists_refused (h : CompletesIff p a) (hnone : ¬∃ t, a = .next t) :
    ∃ r : Refusal, a = .refused r ∧ r.IsInterface := by
  cases h with
  | next hp t => exact absurd ⟨t, rfl⟩ hnone
  | refused hp r hr => exact ⟨r, rfl, hr⟩

theorem congr (hpq : p ↔ q) (h : CompletesIff p a) : CompletesIff q a := propext hpq ▸ h

/-! ### The shared operations -/

theorem settle (s : State) (r : Except Failure Value) : CompletesIff True (settle s r) := by
  cases r with
  | ok v => exact .next trivial _
  | error f => exact .next trivial _

theorem guarded {c : Bool} {e : Refusal} (he : e.IsInterface) (h : CompletesIff True a) :
    CompletesIff (c = true) (if c then a else .refused e) := by
  cases c with
  | true => exact h.congr (by simp)
  | false => exact .refused Bool.false_ne_true e he

theorem onBlock {k : Block → Answer} (h : ∀ b, CompletesIff p (k b)) :
    CompletesIff (s.block ≠ none ∧ p) (onBlock s k) := by
  cases hb : s.block with
  | none =>
    rw [onBlock_none hb]
    exact .refused (by simp) _ trivial
  | some b =>
    rw [onBlock_some hb]
    exact (h b).congr (by simp)

theorem onBuffer {buf : List Sample} {k : Block → Answer} (h : ∀ b, CompletesIff True (k b)) :
    CompletesIff (s.block ≠ none ∧ bufferFits s buf = true) (onBuffer s buf k) :=
  .onBlock fun b => .guarded trivial (h b)

end CompletesIff

section
variable {s : State} {i : Instr}

/-- An operation whose operands have no form to check needs nothing but a block. -/
theorem completesIff_of_onBlock {k : Block → Answer} (hwf : i.wellFormed = true) (hbuf : bufferOf i = none)
    (h : ∀ b, CompletesIff True (k b)) : CompletesIff (s.block ≠ none ∧ OperandsFit s i) (onBlock s k) :=
  .onBlock fun b => (h b).congr (by simp [operandsFit_iff_wellFormed hbuf, hwf])

theorem completesIff_of_guarded {c : Bool} {e : Refusal} {k : Block → Answer} (hwf : i.wellFormed = c)
    (hbuf : bufferOf i = none) (he : e.IsInterface) (h : ∀ b, CompletesIff True (k b)) :
    CompletesIff (s.block ≠ none ∧ OperandsFit s i) (onBlock s fun b => if c then k b else .refused e) :=
  .onBlock fun b => (CompletesIff.guarded he (h b)).congr (by rw [operandsFit_iff_wellFormed hbuf, hwf])

theorem completesIff_of_onBuffer {buf : List Sample} {k : Block → Answer} (hwf : i.wellFormed = true)
    (hbuf : bufferOf i = some buf) (h : ∀ b, CompletesIff True (k b)) :
    CompletesIff (s.block ≠ none ∧ OperandsFit s i) (onBuffer s buf k) :=
  (CompletesIff.onBuffer h).congr (by rw [operandsFit_iff_bufferFits hwf hbuf])

theorem execConstruct_completes (spb : Option (Int × Int)) (policy : ZeroPolicy) (s : State) :
    CompletesIff True (execConstruct spb policy s) := by
  unfold execConstruct
  split
  · exact .next trivial _
  · split
    · exact .next trivial _
    · exact .next trivial _

theorem exec_completesIff (hi : isConstruct i = false) :
    CompletesIff (s.block ≠ none ∧ OperandsFit s i) (exec i s) := by
  cases i with
  | construct spb policy => cases hi
  | statusSpace | statusS | statusI | statusL | statusR | statusC | statusA | start | stop
  | getTimeStr | getTimeMs | isRunning | isReset | isLeftHand | isRightHand | getDigits | getState | runs =>
    exact completesIff_of_onBlock rfl rfl fun _ => .next trivial _
  | resolve | sync | assemble | validate => exact completesIff_of_onBlock rfl rfl fun _ => .settle _ _
  | apply | recover => exact completesIff_of_guarded rfl rfl trivial fun _ => .next trivial _
  | sample buf => exact completesIff_of_onBuffer rfl rfl fun _ => .next trivial _
  | decode buf => exact completesIff_of_onBuffer rfl rfl fun _ => .settle _ _
  | processBuffer buf =>
    refine completesIff_of_onBuffer rfl rfl fun b => ?_
    split
    · split
      · exact .next trivial _
      · exact .next trivial _
    · exact .next trivial _

end

/-- Settles O45: CONSTRUCT has no guard; every other instruction completes by its guards. -/
theorem operationPreconditions : Obligations.OperationPreconditions := by
  intro s i
  have completes : CompletesIff (isConstruct i = true ∨ (s.block ≠ none ∧ OperandsFit s i)) (exec i s) := by
    cases hi : isConstruct i with
    | false => exact (exec_completesIff hi).congr (by simp)
    | true =>
      cases i with
      | construct spb policy => exact (execConstruct_completes spb policy s).congr (by simp)
      | _ => cases hi
  exact ⟨completes.exists_next_iff, completes.exists_refused⟩

end Sys2Proof.Machine

/-! How an operation ends other than with OK (60_exceptions.md R250 to R254): what CONSTRUCT accepts and what is left
where it does not, what is refused without a block, and which code of PROCESS_BUFFER comes first. -/

namespace Sys2Proof.Machine

/-! ### CONSTRUCT -/

section
variable {p q : Int}

theorem usableSpb_eq_false (h : q = 0 ∨ (p : ℚ) / (q : ℚ) ≤ 0) : usableSpb p q = false := by
  rw [Bool.eq_false_iff]
  intro husable
  obtain ⟨hq, hpos⟩ := usableSpb_iff.1 husable
  obtain hzero | hle := h
  · exact hq hzero
  · exact absurd hpos hle.not_gt

theorem execConstruct_of_not_usable (h : usableSpb p q = false) (policy : ZeroPolicy) (s : State) :
    execConstruct (some (p, q)) policy s = raise (s.withBlock none) .configError := by
  simp [execConstruct, h]

/-- CONSTRUCT reads a pair only for its quotient, so the signs of both integers can be changed. -/
theorem execConstruct_neg_neg (policy : ZeroPolicy) (s : State) :
    execConstruct (some (-p, -q)) policy s = execConstruct (some (p, q)) policy s := by
  have hquot : ((-p : Int) : ℚ) / ((-q : Int) : ℚ) = (p : ℚ) / (q : ℚ) := by
    rw [Int.cast_neg, Int.cast_neg, neg_div_neg_eq]
  have husable : usableSpb (-p) (-q) = usableSpb p q := by
    rw [Bool.eq_iff_iff, usableSpb_iff, usableSpb_iff, hquot, neg_ne_zero]
  simp only [execConstruct, husable, hquot]

end

/-! ### Without a block -/

/-- Every instruction but CONSTRUCT begins by looking for the block. -/
theorem exec_of_no_block {s : State} {i : Instr} (hb : s.block = none) (hi : isConstruct i = false) :
    exec i s = .refused .noBlock := by
  cases i with
  | construct spb policy => cases hi
  | _ => exact onBlock_none hb

/-- Settles O12: the two ways to CONFIG_ERROR, the accepting branch for a positive quotient however written, and the
guard every other instruction has. -/
theorem constructConfigError : Obligations.ConstructConfigError := by
  refine ⟨fun _ _ => rfl, fun s _ _ z h => execConstruct_of_not_usable (usableSpb_eq_false h) z s, ?accepts,
    fun _ _ => exec_of_no_block⟩
  case accepts =>
    intro s r p q z hr hq hp
    have hquot : (p : ℚ) / (q : ℚ) = r := by rw [hp, mul_div_cancel_right₀ r (Int.cast_ne_zero.2 hq)]
    exact ⟨_, _, constructMakesResetState s p q z hq (hquot ▸ hr), rfl, rfl, hquot, rfl⟩

/-- Settles O13: the quotient of two negative integers is that of their negations, so CONSTRUCT ends alike on both. -/
theorem constructBothNegativeIsAccepted : Obligations.ConstructBothNegativeIsAccepted := by
  intro s p q z hp hq
  have hpos : 0 < (p : ℚ) / (q : ℚ) := div_pos_of_neg_of_neg (Int.cast_lt_zero.2 hp) (Int.cast_lt_zero.2 hq)
  exact ⟨constructMakesResetState s p q z hq.ne hpos, hpos, (execConstruct_neg_neg z s).symm⟩

/-! ### A buffer that ends with a code -/

/-- A Signal out of the pipeline has been through every stage. -/
theorem stages_of_pipe_ok {spb : ℚ} {policy : ZeroPolicy} {buf : List Sample} {sig : Signal}
    (h : pipe spb policy buf = .ok sig) :
    ∃ rsym k pkt, resolve policy (sampleBuffer buf) = .ok rsym ∧ sync spb rsym = .ok k ∧
      assemble (recoverBits spb (runsOf (rsym.drop k))) = .ok pkt ∧ validate pkt = .ok sig := by
  cases hresolve : resolve policy (sampleBuffer buf) with
  | error f =>
    rw [pipe_of_resolve_error hresolve] at h
    cases h
  | ok rsym =>
    rw [pipe_of_resolve_ok hresolve] at h
    cases hsync : sync spb rsym with
    | error f =>
      rw [decodeResolved_of_sync_error hsync] at h
      cases h
    | ok k =>
      rw [decodeResolved_of_sync_ok hsync] at h
      cases hassemble : assemble (recoverBits spb (runsOf (rsym.drop k))) with
      | error f =>
        rw [decodeSuffix_of_assemble_error hassemble] at h
        cases h
      | ok pkt =>
        rw [decodeSuffix_of_assemble_ok hassemble] at h
        exact ⟨rsym, k, pkt, rfl, hsync, hassemble, h⟩

/-- PROCESS_BUFFER answers and writes nothing else, or accepts the pipeline's Signal. -/
theorem execProcessBuffer_raised_or_accepted {s t : State} {buf : List Sample}
    (h : execProcessBuffer buf s = .next t) :
    (∃ f, t = s.withResult (.fail f)) ∨
      ∃ b sig, s.block = some b ∧ pipe b.spb b.zeroPolicy buf = .ok sig ∧ accept s b sig = .next t := by
  obtain ⟨b, hb, -, ⟨-, ht⟩ | ⟨-, f, -, ht⟩ | ⟨-, sig, hpipe, hacc⟩⟩ := execProcessBuffer_next h
  · exact .inl ⟨_, ht⟩
  · exact .inl ⟨f, ht⟩
  · exact .inr ⟨b, sig, hb, hpipe, hacc⟩

/-- Settles O17: an accepted Signal ends with OK, and a raised code leaves the block. -/
theorem failedBufferWritesNothing : Obligations.FailedBufferWritesNothing := by
  refine ⟨fun s t buf f h hfail => ?_, fun s t b buf hb h hchanged => ?_⟩
  · obtain ⟨g, rfl⟩ | ⟨b, sig, -, -, hacc⟩ := execProcessBuffer_raised_or_accepted h
    · obtain rfl : g = f := by simpa using hfail
      rfl
    · obtain rfl := accept_next hacc
      simp at hfail
  · obtain ⟨g, rfl⟩ | ⟨b', sig, hb', hpipe, hacc⟩ := execProcessBuffer_raised_or_accepted h
    · exact absurd rfl hchanged
    · obtain rfl : b = b' := Option.some.inj (hb.symm.trans hb')
      obtain ⟨rsym, k, pkt, hresolve, hsync, hassemble, hvalidate⟩ := stages_of_pipe_ok hpipe
      obtain rfl := accept_next hacc
      exact ⟨rsym, k, pkt, sig, hresolve, hsync, hassemble, hvalidate, rfl⟩

/-! ### Zero-class samples -/

theorem sampleSymbol_eq_indet_iff {x : Sample} : sampleSymbol x = .indet ↔ classify x = .zero := by
  unfold sampleSymbol
  cases classify x <;> simp

section
variable {buf : List Sample} {i : Nat}

theorem sampleBuffer_getElem?_eq_indet_iff :
    (sampleBuffer buf)[i]? = some .indet ↔ ∃ x, buf[i]? = some x ∧ classify x = .zero := by
  simp [sampleBuffer, sampleSymbol_eq_indet_iff]

/-- Under ABORT the first zero-class sample ends the pipeline, whatever the buffer holds besides. -/
theorem pipe_abort_of_first_zero {x : Sample} (spb : ℚ) (hx : buf[i]? = some x) (hzero : classify x = .zero)
    (hfirst : ∀ j y, j < i → buf[j]? = some y → classify y ≠ .zero) :
    pipe spb .abort buf = .error (.indeterminate i) := by
  have hindet : (sampleBuffer buf)[i]? = some .indet := sampleBuffer_getElem?_eq_indet_iff.2 ⟨x, hx, hzero⟩
  have hbefore : ∀ j, j < i → (sampleBuffer buf)[j]? ≠ some .indet := by
    intro j hj hj_indet
    obtain ⟨y, hy, hy_zero⟩ := sampleBuffer_getElem?_eq_indet_iff.1 hj_indet
    exact hfirst j y hj hy hy_zero
  apply pipe_of_resolve_error
  rw [resolve, resolveAbort_of_first_indet 0 hindet hbefore, Nat.zero_add]

theorem sampleBuffer_of_all_zero (hall : ∀ y ∈ buf, classify y = .zero) :
    sampleBuffer buf = List.replicate buf.length .indet :=
  List.map_eq_replicate_iff.2 fun y hy => sampleSymbol_eq_indet_iff.2 (hall y hy)

theorem resolveHold_replicate_indet (prev : Bit) (n : Nat) :
    resolveHold prev (List.replicate n .indet) = List.replicate n prev := by
  induction n with
  | zero => rfl
  | succ n ih => rw [List.replicate_succ, List.replicate_succ, resolveHold, ih]

/-- Under HOLD zero-class samples alone continue the leading mark, in which no space ever comes. -/
theorem pipe_hold_of_all_zero (spb : ℚ) (hall : ∀ y ∈ buf, classify y = .zero) :
    pipe spb .hold buf = .error .syncMiss := by
  have hresolve : resolve .hold (sampleBuffer buf) = .ok (List.replicate buf.length true) := by
    rw [resolve, sampleBuffer_of_all_zero hall, resolveHold_replicate_indet]
  rw [pipe_of_resolve_ok hresolve]
  apply decodeResolved_of_sync_error
  rw [sync, syncScan_replicate_eq_none]

end

/-- Settles O39: the capture mode is tested before the pipeline runs, and RESOLVE comes before SYNC in it. -/
theorem earlierCauseWins : Obligations.EarlierCauseWins := by
  intro s b buf i x hb hfits hx hzero hfirst
  refine ⟨fun hcap => execProcessBuffer_of_not_capturing hb hcap hfits, fun hcap habort => ?_,
    fun hcap hhold hall => ?_⟩
  · exact execProcessBuffer_of_pipe_error hb hcap hfits (habort ▸ pipe_abort_of_first_zero b.spb hx hzero hfirst)
  · exact execProcessBuffer_of_pipe_error hb hcap hfits (hhold ▸ pipe_hold_of_all_zero b.spb hall)

/-! ### Nothing issued, and the numbers of the codes -/

theorem step_of_no_pending {s : State} (h : s.pending = []) : step s = .next s := by
  rw [step, h]

/-- Settles O50. -/
theorem stepIdlesWithNothingPending : Obligations.StepIdlesWithNothingPending := fun _ => step_of_no_pending

/-- Settles O58: each row of the table is an equation of `resultCode`. -/
theorem resultCodeNumbers : Obligations.ResultCodeNumbers :=
  ⟨fun _ => rfl, rfl, rfl, fun _ => rfl, rfl, fun _ => rfl, rfl⟩

end Sys2Proof.Machine

/-! The requests with no meaning (70_reset_and_hazards.md R284, R288; 30_encoding.md R82): `fetchInstr` refuses each by a
name of its own, and a step on a request that fetches nothing is that refusal. -/

namespace Sys2Proof.Machine

section
variable {r : Request}

theorem fetchInstr_of_overlapping (h : r.issue = .overlapping) : fetchInstr r = .error .overlappingOperation := by
  rw [fetchInstr, h]

theorem fetchInstr_of_reentrant (h : r.issue = .reentrant) : fetchInstr r = .error .reentrantOperation := by
  rw [fetchInstr, h]

theorem fetchInstr_of_decode_error {e : DecodeError} (hserial : r.issue = .serial)
    (hdecode : decode r.port r.bytes = .error e) : fetchInstr r = .error (.undecodable e) := by
  simp only [fetchInstr, hserial, hdecode]

theorem step_of_fetchInstr_error {s : State} {rest : List Request} {e : Refusal} (hp : s.pending = r :: rest)
    (hf : fetchInstr r = .error e) : step s = .refused e := by
  simp only [step, hp, hf]

end

/-- Settles O49: each way of issuing a request that has no meaning is refused at the fetch, before any instruction runs. -/
theorem stepRefusesWhatHasNoMeaning : Obligations.StepRefusesWhatHasNoMeaning :=
  fun _ _ _ hp =>
    ⟨fun hoverlapping => step_of_fetchInstr_error hp (fetchInstr_of_overlapping hoverlapping),
      fun hreentrant => step_of_fetchInstr_error hp (fetchInstr_of_reentrant hreentrant),
      fun _ hserial hdecode => step_of_fetchInstr_error hp (fetchInstr_of_decode_error hserial hdecode)⟩

end Sys2Proof.Machine
